-- ==== Sys2Proof/Word.lean ====
section
/-! DEFINITION. The two word types of the core: bytes and 16-bit words (00_scope.md R6, R8). -/

namespace Sys2Proof

/-- A register half, a memory byte or a port byte: 8 bits (R6). -/
abbrev Byte := BitVec 8

/-- A register pair, the program counter or a memory address: 16 bits (R6). -/
abbrev Word := BitVec 16

end Sys2Proof
end

