-- ==== Sys2Proof/Syntax.lean ====
section
/-! DEFINITION. The instruction set as syntax: one constructor of `Instr` per row of spec/opcode_table.json, and the
small enumerations the rows are built from (30_encoding.md R72 to R77, 40_pipeline.md R104). -/

namespace Sys2Proof

/-- IndexMode (10_state.md R34): how the logical H/L accessors and the memory slot resolve. -/
inductive IndexMode where
  | direct
  | indexedX
  | indexedY
deriving DecidableEq, Repr

/-- The two index registers (R38). -/
inductive IndexReg where
  | ix
  | iy
deriving DecidableEq, Repr

/-- The ALU operations in scope: y = 4 AND, 5 XOR, 6 OR (R72). -/
inductive AluOp where
  | and
  | xor
  | or
deriving DecidableEq, Repr

/-- The register slots of the z field, all but the memory slot z = 6 (R73). `h` and `l` are the logical H and L. -/
inductive Slot where
  | b
  | c
  | d
  | e
  | h
  | l
  | a
deriving DecidableEq, Repr

/-- The operand selector of an ALU descriptor (R104). -/
inductive Operand where
  /-- `Reg(z, m)`: a register slot, resolved under the mode held for the instruction. -/
  | reg (z : Slot) (m : IndexMode)
  /-- `MemHL`: the byte at HL. -/
  | memHl
  /-- `MemIdx(m, d, ea)`: the byte at `ea`, with the displacement `d` of index register `p`. -/
  | memIdx (p : IndexReg) (d : Byte) (ea : Word)
deriving DecidableEq, Repr

/-- The OperationDescriptor a hook is called with (R104, R106). -/
inductive Descriptor where
  | alu (k : AluOp) (opnd : Operand)
  | nop
  | di
deriving DecidableEq, Repr

/-- The instructions, one per row of the opcode table. The docstring of each names its text, the IndexMode it is
selected under and its rule. `d` is the displacement byte. -/
inductive Instr where
  /-- `nop`, any mode (R180) -/
  | nop
  /-- `and b`, any mode (R133) -/
  | andB
  /-- `and c`, any mode (R133) -/
  | andC
  /-- `and d`, any mode (R133) -/
  | andD
  /-- `and e`, any mode (R133) -/
  | andE
  /-- `and h`, Direct (R133) -/
  | andH
  /-- `and l`, Direct (R133) -/
  | andL
  /-- `and (hl)`, Direct (R134) -/
  | andMemHl
  /-- `and a`, any mode (R133) -/
  | andA
  /-- `and ixh`, IndexedX (R135) -/
  | andIxh
  /-- `and ixl`, IndexedX (R135) -/
  | andIxl
  /-- `and (ix+d)`, IndexedX (R137) -/
  | andMemIx (d : Byte)
  /-- `and iyh`, IndexedY (R136) -/
  | andIyh
  /-- `and iyl`, IndexedY (R136) -/
  | andIyl
  /-- `and (iy+d)`, IndexedY (R138) -/
  | andMemIy (d : Byte)
  /-- `xor b`, any mode (R139) -/
  | xorB
  /-- `xor c`, any mode (R139) -/
  | xorC
  /-- `xor d`, any mode (R139) -/
  | xorD
  /-- `xor e`, any mode (R139) -/
  | xorE
  /-- `xor h`, Direct (R139) -/
  | xorH
  /-- `xor l`, Direct (R139) -/
  | xorL
  /-- `xor (hl)`, Direct (R140) -/
  | xorMemHl
  /-- `xor a`, any mode (R139) -/
  | xorA
  /-- `xor ixh`, IndexedX (R141) -/
  | xorIxh
  /-- `xor ixl`, IndexedX (R141) -/
  | xorIxl
  /-- `xor (ix+d)`, IndexedX (R143) -/
  | xorMemIx (d : Byte)
  /-- `xor iyh`, IndexedY (R142) -/
  | xorIyh
  /-- `xor iyl`, IndexedY (R142) -/
  | xorIyl
  /-- `xor (iy+d)`, IndexedY (R144) -/
  | xorMemIy (d : Byte)
  /-- `or b`, any mode (R145) -/
  | orB
  /-- `or c`, any mode (R145) -/
  | orC
  /-- `or d`, any mode (R145) -/
  | orD
  /-- `or e`, any mode (R145) -/
  | orE
  /-- `or h`, Direct (R145) -/
  | orH
  /-- `or l`, Direct (R145) -/
  | orL
  /-- `or (hl)`, Direct (R146) -/
  | orMemHl
  /-- `or a`, any mode (R145) -/
  | orA
  /-- `or ixh`, IndexedX (R147) -/
  | orIxh
  /-- `or ixl`, IndexedX (R147) -/
  | orIxl
  /-- `or (ix+d)`, IndexedX (R149) -/
  | orMemIx (d : Byte)
  /-- `or iyh`, IndexedY (R148) -/
  | orIyh
  /-- `or iyl`, IndexedY (R148) -/
  | orIyl
  /-- `or (iy+d)`, IndexedY (R150) -/
  | orMemIy (d : Byte)
  /-- `di`, any mode (R181) -/
  | di
  /-- the prefix 0xDD, any mode (R182) -/
  | prefixDD
  /-- the prefix 0xFD, any mode (R183) -/
  | prefixFD
deriving DecidableEq, Repr

end Sys2Proof
end

