-- ==== Sys2Proof/WellFormed.lean ====
section
/-! DEFINITION. Which instruction a word may stand for under which IndexMode: the IMODE column of the opcode map
(30_encoding.md R77). An instruction is well formed under mode `m` when the map selects it there; its displacement may
be any byte (R75), so nothing else can be wrong with it. -/

namespace Sys2Proof

/-- The one IndexMode a row is selected under, or none where the row says "any" (R77). -/
def Instr.mode? : Instr → Option IndexMode
  | .nop => none
  | .andB => none
  | .andC => none
  | .andD => none
  | .andE => none
  | .andH => some .direct
  | .andL => some .direct
  | .andMemHl => some .direct
  | .andA => none
  | .andIxh => some .indexedX
  | .andIxl => some .indexedX
  | .andMemIx _ => some .indexedX
  | .andIyh => some .indexedY
  | .andIyl => some .indexedY
  | .andMemIy _ => some .indexedY
  | .xorB => none
  | .xorC => none
  | .xorD => none
  | .xorE => none
  | .xorH => some .direct
  | .xorL => some .direct
  | .xorMemHl => some .direct
  | .xorA => none
  | .xorIxh => some .indexedX
  | .xorIxl => some .indexedX
  | .xorMemIx _ => some .indexedX
  | .xorIyh => some .indexedY
  | .xorIyl => some .indexedY
  | .xorMemIy _ => some .indexedY
  | .orB => none
  | .orC => none
  | .orD => none
  | .orE => none
  | .orH => some .direct
  | .orL => some .direct
  | .orMemHl => some .direct
  | .orA => none
  | .orIxh => some .indexedX
  | .orIxl => some .indexedX
  | .orMemIx _ => some .indexedX
  | .orIyh => some .indexedY
  | .orIyl => some .indexedY
  | .orMemIy _ => some .indexedY
  | .di => none
  | .prefixDD => none
  | .prefixFD => none

/-- `i` is an instruction the opcode map selects under mode `m` (R77). -/
def Instr.wf (m : IndexMode) (i : Instr) : Bool :=
  match i.mode? with
  | none => true
  | some m' => decide (m = m')

end Sys2Proof
end

