-- ==== Sys2Proof/Decode.lean ====
section
/-! DEFINITION. The decoder, total on any bytes and rejecting by name (30_encoding.md R70 to R81), and after it the
encoder, written from the opcode map R77 and not from the decoder. -/

namespace Sys2Proof

/-- Why bytes are no instruction. `noTableEntry` is the spec's decode failure (R78); the other two say that the bytes
given end too early, which a step never meets, since the bus answers every read (R65). -/
inductive DecodeReject where
  /-- the opcode byte has no entry in the opcode map (R78) -/
  | noTableEntry (opcode : Byte)
  /-- there is no opcode byte -/
  | noOpcode
  /-- the opcode takes a displacement byte and there is none -/
  | noDisplacement (opcode : Byte)
deriving DecidableEq, Repr

/-- What the first byte of a step and IMODE decide (R80): an instruction complete in one byte, or an ALU operation on
`(IX+d)` or `(IY+d)`, which takes one more byte. -/
inductive Opcode where
  | complete (i : Instr)
  | displaced (k : AluOp) (p : IndexReg)
deriving DecidableEq, Repr

/-! ## Fields (R71) -/

/-- x = b[7:6], the class. -/
def fieldX (b : Byte) : BitVec 2 := b.extractLsb' 6 2

/-- y = b[5:3], the ALU-operation selector. -/
def fieldY (b : Byte) : BitVec 3 := b.extractLsb' 3 3

/-- z = b[2:0], the register selector. -/
def fieldZ (b : Byte) : BitVec 3 := b.extractLsb' 0 3

/-! ## Selector tables (R72, R73) -/

/-- The ALU-operation selector (R72); ADD, ADC, SUB, SBC and CP are reserved extension points with no entry. -/
def aluOp? (y : BitVec 3) : Option AluOp :=
  match y.toNat with
  | 4 => some .and
  | 5 => some .xor
  | 6 => some .or
  | _ => none

/-- The register selector (R73); z = 6 is the memory slot. -/
def slot? (z : BitVec 3) : Option Slot :=
  match z.toNat with
  | 0 => some .b
  | 1 => some .c
  | 2 => some .d
  | 3 => some .e
  | 4 => some .h
  | 5 => some .l
  | 7 => some .a
  | _ => none

/-! ## The row an operation and an operand select (R74) -/

/-- The `and` row of a register slot under a mode: H and L redirect to IXH, IXL, IYH, IYL (R74). -/
def andReg : Slot → IndexMode → Instr
  | .b, _ => .andB
  | .c, _ => .andC
  | .d, _ => .andD
  | .e, _ => .andE
  | .a, _ => .andA
  | .h, .direct => .andH
  | .h, .indexedX => .andIxh
  | .h, .indexedY => .andIyh
  | .l, .direct => .andL
  | .l, .indexedX => .andIxl
  | .l, .indexedY => .andIyl

/-- The `xor` row of a register slot under a mode: H and L redirect to IXH, IXL, IYH, IYL (R74). -/
def xorReg : Slot → IndexMode → Instr
  | .b, _ => .xorB
  | .c, _ => .xorC
  | .d, _ => .xorD
  | .e, _ => .xorE
  | .a, _ => .xorA
  | .h, .direct => .xorH
  | .h, .indexedX => .xorIxh
  | .h, .indexedY => .xorIyh
  | .l, .direct => .xorL
  | .l, .indexedX => .xorIxl
  | .l, .indexedY => .xorIyl

/-- The `or` row of a register slot under a mode: H and L redirect to IXH, IXL, IYH, IYL (R74). -/
def orReg : Slot → IndexMode → Instr
  | .b, _ => .orB
  | .c, _ => .orC
  | .d, _ => .orD
  | .e, _ => .orE
  | .a, _ => .orA
  | .h, .direct => .orH
  | .h, .indexedX => .orIxh
  | .h, .indexedY => .orIyh
  | .l, .direct => .orL
  | .l, .indexedX => .orIxl
  | .l, .indexedY => .orIyl

/-- The row of an operation on a register slot. -/
def aluReg : AluOp → Slot → IndexMode → Instr
  | .and => andReg
  | .xor => xorReg
  | .or => orReg

/-- The row of an operation on `(HL)`. -/
def aluMemHl : AluOp → Instr
  | .and => .andMemHl
  | .xor => .xorMemHl
  | .or => .orMemHl

/-- The row of an operation on `(IX+d)` or `(IY+d)`. -/
def aluMemIdx : AluOp → IndexReg → Byte → Instr
  | .and, .ix, d => .andMemIx d
  | .and, .iy, d => .andMemIy d
  | .xor, .ix, d => .xorMemIx d
  | .xor, .iy, d => .xorMemIy d
  | .or, .ix, d => .orMemIx d
  | .or, .iy, d => .orMemIy d

/-- A class-2 row with operation `k` and register field `z` under mode `m` (R74). -/
def decodeClass2 (m : IndexMode) (k : AluOp) (z : BitVec 3) : Opcode :=
  match slot? z with
  | some r => .complete (aluReg k r m)
  | none =>
    match m with
    | .direct => .complete (aluMemHl k)
    | .indexedX => .displaced k .ix
    | .indexedY => .displaced k .iy

/-- The opcode byte `b` under mode `m` (R77, R78, R102): a prefix, a dedicated control opcode, a class-2 row, or no
table entry. -/
def decodeOpcode (m : IndexMode) (b : Byte) : Except DecodeReject Opcode :=
  if b = 0xDD#8 then .ok (.complete .prefixDD)
  else if b = 0xFD#8 then .ok (.complete .prefixFD)
  else if b = 0x00#8 then .ok (.complete .nop)
  else if b = 0xF3#8 then .ok (.complete .di)
  else if fieldX b = 2#2 then
    match aluOp? (fieldY b) with
    | some k => .ok (decodeClass2 m k (fieldZ b))
    | none => .error (.noTableEntry b)
  else .error (.noTableEntry b)

/-- The instruction at the head of a byte stream under mode `m`, with the bytes it leaves (R70, R80). -/
def decode (m : IndexMode) : List Byte → Except DecodeReject (Instr × List Byte)
  | [] => .error .noOpcode
  | b :: rest =>
    match decodeOpcode m b with
    | .error e => .error e
    | .ok (.complete i) => .ok (i, rest)
    | .ok (.displaced k p) =>
      match rest with
      | [] => .error (.noDisplacement b)
      | d :: rest' => .ok (aluMemIdx k p d, rest')

/-! ## The encoder -/

/-- The opcode byte of a row, from the opcode map (R77). -/
def opcodeByte : Instr → Byte
  | .nop => 0x00#8
  | .andB => 0xA0#8
  | .andC => 0xA1#8
  | .andD => 0xA2#8
  | .andE => 0xA3#8
  | .andH => 0xA4#8
  | .andL => 0xA5#8
  | .andMemHl => 0xA6#8
  | .andA => 0xA7#8
  | .andIxh => 0xA4#8
  | .andIxl => 0xA5#8
  | .andMemIx _ => 0xA6#8
  | .andIyh => 0xA4#8
  | .andIyl => 0xA5#8
  | .andMemIy _ => 0xA6#8
  | .xorB => 0xA8#8
  | .xorC => 0xA9#8
  | .xorD => 0xAA#8
  | .xorE => 0xAB#8
  | .xorH => 0xAC#8
  | .xorL => 0xAD#8
  | .xorMemHl => 0xAE#8
  | .xorA => 0xAF#8
  | .xorIxh => 0xAC#8
  | .xorIxl => 0xAD#8
  | .xorMemIx _ => 0xAE#8
  | .xorIyh => 0xAC#8
  | .xorIyl => 0xAD#8
  | .xorMemIy _ => 0xAE#8
  | .orB => 0xB0#8
  | .orC => 0xB1#8
  | .orD => 0xB2#8
  | .orE => 0xB3#8
  | .orH => 0xB4#8
  | .orL => 0xB5#8
  | .orMemHl => 0xB6#8
  | .orA => 0xB7#8
  | .orIxh => 0xB4#8
  | .orIxl => 0xB5#8
  | .orMemIx _ => 0xB6#8
  | .orIyh => 0xB4#8
  | .orIyl => 0xB5#8
  | .orMemIy _ => 0xB6#8
  | .di => 0xF3#8
  | .prefixDD => 0xDD#8
  | .prefixFD => 0xFD#8

/-- The displacement byte of a row, where it has one (R70, format `OP_D`). -/
def displacement? : Instr → Option Byte
  | .nop => none
  | .andB => none
  | .andC => none
  | .andD => none
  | .andE => none
  | .andH => none
  | .andL => none
  | .andMemHl => none
  | .andA => none
  | .andIxh => none
  | .andIxl => none
  | .andMemIx d => some d
  | .andIyh => none
  | .andIyl => none
  | .andMemIy d => some d
  | .xorB => none
  | .xorC => none
  | .xorD => none
  | .xorE => none
  | .xorH => none
  | .xorL => none
  | .xorMemHl => none
  | .xorA => none
  | .xorIxh => none
  | .xorIxl => none
  | .xorMemIx d => some d
  | .xorIyh => none
  | .xorIyl => none
  | .xorMemIy d => some d
  | .orB => none
  | .orC => none
  | .orD => none
  | .orE => none
  | .orH => none
  | .orL => none
  | .orMemHl => none
  | .orA => none
  | .orIxh => none
  | .orIxl => none
  | .orMemIx d => some d
  | .orIyh => none
  | .orIyl => none
  | .orMemIy d => some d
  | .di => none
  | .prefixDD => none
  | .prefixFD => none

/-- The bytes one step takes for an instruction (R70). -/
def encode (i : Instr) : List Byte :=
  opcodeByte i :: (displacement? i).toList

/-- The prefix byte that selects a mode (R76); Direct needs none. -/
def prefixBytes : IndexMode → List Byte
  | .direct => []
  | .indexedX => [0xDD#8]
  | .indexedY => [0xFD#8]

/-- The bytes of an instruction as a programmer writes it from Direct: the prefix its row needs, then the step's own
bytes (R70, R83). -/
def encodeWithPrefix (i : Instr) : List Byte :=
  prefixBytes (i.mode?.getD .direct) ++ encode i

/-! ## The host's table words -/

/-- The bytes of a table word: the first byte is bits 7..0, the second bits 15..8, two being the longest a step takes;
the bits above `nbits` are zero (log 7). -/
def tableBytes (nbits w : Nat) : List Byte :=
  let v := w % 2 ^ nbits
  [BitVec.ofNat 8 v, BitVec.ofNat 8 (v / 256)]

/-- The instruction the decoder reads from a table word, under Direct, the mode at construction (R40; log 7). A row
that the map lists under IndexedX or IndexedY has the byte of a Direct row: its prefix is a step of its own. -/
def decodeTableWord (nbits w : Nat) : Option Instr :=
  match decode .direct (tableBytes nbits w) with
  | .ok (i, _) => some i
  | .error _ => none

end Sys2Proof
end

