-- ==== Sys2Proof/Config.lean ====
section
/-! DEFINITION. The free values: what the bus collaborator answers where neither a scripted answer nor a listed
byte of memory gives it (20_memory.md R53: "whatever the bus collaborator returns"; log 1, log 2). No body, so
nothing can be proved about a value of theirs. Each takes the number of the answering call, so that two calls at
one address need not agree, and fetch and read are apart, so that they need not agree either. -/

namespace Sys2Proof

/-- The free answer to answering call number `n`, a `fetch(addr)`. -/
opaque Config.freeFetch : (n : Nat) → (addr : Word) → Byte

/-- The free answer to answering call number `n`, a `read(addr)`. -/
opaque Config.freeRead : (n : Nat) → (addr : Word) → Byte

/-- The free answer to answering call number `n`, an `input(port)`. -/
opaque Config.freeInput : (n : Nat) → (port : Byte) → Byte

end Sys2Proof
end

