-- ==== Sys2Proof/Machine/State.lean ====
section
/-! DEFINITION. The machine's state as plain data: the processor record of 10_state.md R20, and beside it the host's
side of the bus contract (20_memory.md R50 to R53) and the parameter P_AND_H (00_scope.md R7), which are the model's own
fields. The reasons a step stops, and the state at construction (R40, R240). -/

namespace Sys2Proof.Machine

/-- The run state (R36). -/
inductive RunState where
  | running
  | halted
deriving DecidableEq, Repr

/-- The state of one engine instance, exactly the record of R20. -/
structure Processor where
  /-- A ++ F (R22, R29) -/
  af : Word
  /-- B ++ C -/
  bc : Word
  /-- D ++ E -/
  de : Word
  /-- H ++ L -/
  hl : Word
  /-- IXH ++ IXL (R38) -/
  ix : Word
  /-- IYH ++ IYL (R38) -/
  iy : Word
  /-- the program counter (R27) -/
  pc : Word
  /-- MEMPTR (R33) -/
  memptr : Word
  /-- LAST_FETCH (R35) -/
  lastFetch : Word
  /-- IFF1 (R32) -/
  iff1 : Bool
  /-- IFF2 (R32) -/
  iff2 : Bool
  /-- IMODE (R34) -/
  imode : IndexMode
  /-- RUN (R36) -/
  run : RunState
  /-- CYCLES, unbounded (R37) -/
  cycles : Nat
deriving DecidableEq, Repr

/-- The collaborator's memory (R50, R53). `cells` lists bytes by address, strictly rising; `fill` is what an unlisted
address reads as: `some b` is FlatBus(M) with `b` there, `none` says that the collaborator may answer any byte (log 3). -/
structure Memory where
  fill : Option Byte
  cells : List Host.Cell
deriving DecidableEq, Repr

/-- A call of the bus contract as the host sees it (R52). -/
inductive BusCall where
  | fetch (addr : Word)
  | read (addr : Word)
  | write (addr : Word) (v : Byte)
  | input (port : Byte)
  | output (port : Byte) (v : Byte)
  | tick (n : Nat)
deriving DecidableEq, Repr

/-- The host's side of the bus contract (R53, parameter BUS). An answering call takes the oldest of `answers`; where
there is none, memory answers; where memory does not, the answer is free (log 1, log 2). -/
structure Bus where
  mem : Memory
  /-- the bytes the collaborator will answer next, oldest first -/
  answers : List Byte
  /-- how many answering calls were made -/
  calls : Nat
  /-- the calls the core issued, oldest first (R56; log 6) -/
  trace : List BusCall
deriving DecidableEq, Repr

/-- The machine: the processor record, the bus side and the parameter P_AND_H, which no step writes (log 5). -/
structure State extends Processor where
  bus : Bus
  pAndH : Bool
deriving DecidableEq, Repr

/-- The reasons a step stops with a fault. -/
inductive Fault where
  /-- Raised by a step whose fetched opcode byte has no table entry (60_exceptions.md R210), with the byte and the
  address it was fetched from. Safe: the spec gives such a step no successor (R211); what the bus saw is `busAfterStep`. -/
  | decodeError (opcode : Byte) (address : Word)
deriving DecidableEq, Repr

/-- The reasons a step refuses an instruction. -/
inductive Refusal where
  /-- Raised by `exec` for an instruction that has no meaning yet; no arm does so. Safe: nothing is said of it. -/
  | notModelled (mnemonic : String)
deriving DecidableEq, Repr

/-- The parameter INIT (00_scope.md R7): the values at construction that the source does not give. -/
structure Init where
  af : Word
  bc : Word
  de : Word
  hl : Word
  ix : Word
  iy : Word
  memptr : Word
  lastFetch : Word
  iff1 : Bool
  iff2 : Bool
deriving DecidableEq, Repr

/-- The INIT that `State.reset` names: zero everywhere. DESIGN CHOICE, unsafe: the spec gives no value (log 4). -/
def Init.zero : Init :=
  { af := 0, bc := 0, de := 0, hl := 0, ix := 0, iy := 0, memptr := 0, lastFetch := 0, iff1 := false, iff2 := false }

/-- A bus side about which nothing is known: no scripted answer, no listed byte, any byte elsewhere (log 3). -/
def Bus.fresh : Bus :=
  { mem := { fill := none, cells := [] }, answers := [], calls := 0, trace := [] }

/-- Construction of an engine (70_reset_and_hazards.md R240) with the parameters INIT and P_AND_H and the bus side
bound to it. -/
def State.construct (init : Init) (pAndH : Bool) (bus : Bus) : State :=
  { af := init.af, bc := init.bc, de := init.de, hl := init.hl, ix := init.ix, iy := init.iy,
    pc := 0x0000#16, memptr := init.memptr, lastFetch := init.lastFetch,
    iff1 := init.iff1, iff2 := init.iff2,
    imode := .direct, run := .running, cycles := 0,
    bus := bus, pAndH := pAndH }

/-- The machine right after reset: R40's values, the INIT of log 4, P_AND_H at its source value 0 (R131, log 5). -/
def State.reset : State := State.construct Init.zero false Bus.fresh

end Sys2Proof.Machine
end

