-- ==== Sys2Proof/Machine/Ops.lean ====
section
/-! DEFINITION. The named operations over registers, memory and the bus (10_state.md R22 to R25, 20_memory.md R50 to
R59), the one way a step fails (60_exceptions.md R210), the end of an instruction (40_pipeline.md R107), and an external
reset (70_reset_and_hazards.md R241). -/

namespace Sys2Proof.Machine

/-! ## Bits of a pair (00_scope.md R8, R9) -/

/-- The high byte of a pair, bits 15..8 (R22). -/
def hiByte (w : Word) : Byte := w.extractLsb' 8 8

/-- The low byte of a pair, bits 7..0 (R22). -/
def loByte (w : Word) : Byte := w.extractLsb' 0 8

/-- `h ++ l`, with `h` in the high bits (R8). -/
def mkPair (h l : Byte) : Word := h ++ l

/-- `sext_16(v)` (R9). -/
def sext16 (v : Byte) : Word := v.signExtend 16

/-! ## Register pairs and halves (R22 to R24) -/

/-- The six register pairs (R22). -/
inductive Pair where
  | af
  | bc
  | de
  | hl
  | ix
  | iy
deriving DecidableEq, Repr

/-- `R[p]` for a pair. -/
def State.readPair (s : State) : Pair → Word
  | .af => s.af
  | .bc => s.bc
  | .de => s.de
  | .hl => s.hl
  | .ix => s.ix
  | .iy => s.iy

/-- The storage of a pair. -/
def State.setPair (s : State) (v : Word) : Pair → State
  | .af => { s with af := v }
  | .bc => { s with bc := v }
  | .de => { s with de := v }
  | .hl => { s with hl := v }
  | .ix => { s with ix := v }
  | .iy => { s with iy := v }

/-- The high half of a pair. -/
def State.readHigh (s : State) (p : Pair) : Byte := hiByte (s.readPair p)

/-- The low half of a pair. -/
def State.readLow (s : State) (p : Pair) : Byte := loByte (s.readPair p)

/-- Writing the high half leaves the low half unchanged (R23). -/
def State.writeHigh (s : State) (p : Pair) (v : Byte) : State := s.setPair (mkPair v (s.readLow p)) p

/-- Writing the low half leaves the high half unchanged (R23). -/
def State.writeLow (s : State) (p : Pair) (v : Byte) : State := s.setPair (mkPair (s.readHigh p) v) p

/-- A 16-bit write: two 8-bit writes, low byte first, then high byte (R24). -/
def State.writePair (s : State) (p : Pair) (v : Word) : State :=
  (s.writeLow p (loByte v)).writeHigh p (hiByte v)

/-- `R[A]` -/
def State.a (s : State) : Byte := s.readHigh .af

/-- `R[F]`, the flags byte (R29). -/
def State.f (s : State) : Byte := s.readLow .af

/-- `R[A] <- v` -/
def State.setA (s : State) (v : Byte) : State := s.writeHigh .af v

/-- `R[F] <- v`, the whole flags byte (R30). -/
def State.setF (s : State) (v : Byte) : State := s.writeLow .af v

/-! ## Logical H and L (R25) -/

/-- The pair whose halves the logical H and L are under a mode. -/
def hlPair : IndexMode → Pair
  | .direct => .hl
  | .indexedX => .ix
  | .indexedY => .iy

/-- `Rlog[H]` under the held mode `m`. -/
def State.logH (s : State) (m : IndexMode) : Byte := s.readHigh (hlPair m)

/-- `Rlog[L]` under the held mode `m`. -/
def State.logL (s : State) (m : IndexMode) : Byte := s.readLow (hlPair m)

/-- `Rlog[H] <- v` writes the location `Rlog[H]` reads. -/
def State.setLogH (s : State) (m : IndexMode) (v : Byte) : State := s.writeHigh (hlPair m) v

/-- `Rlog[L] <- v` writes the location `Rlog[L]` reads. -/
def State.setLogL (s : State) (m : IndexMode) (v : Byte) : State := s.writeLow (hlPair m) v

/-! ## Memory: the listed bytes of the collaborator's 64 KiB (R50, R53, R60) -/

/-- The byte a sorted cell list holds at an address. -/
def findCell : List Host.Cell → Nat → Option Byte
  | [], _ => none
  | c :: cs, a => if c.1 = a then some c.2 else findCell cs a

/-- The cell list with address `a` holding `v`, kept sorted. -/
def putCell : List Host.Cell → Nat → Byte → List Host.Cell
  | [], a, v => [(a, v)]
  | c :: cs, a, v =>
    if a < c.1 then (a, v) :: c :: cs
    else if a = c.1 then (a, v) :: cs
    else c :: putCell cs a v

/-- The cell list with no cell at address `a`. -/
def dropCell (cs : List Host.Cell) (a : Nat) : List Host.Cell := cs.filter (fun c => c.1 ≠ a)

/-- What an unlisted address reads as: the fill byte, or nothing known (log 3). -/
def Memory.unlisted (m : Memory) : Option Byte := m.fill

/-- The byte memory holds at an address, where it is known. -/
def Memory.byte? (m : Memory) (a : Word) : Option Byte :=
  match findCell m.cells a.toNat with
  | some v => some v
  | none => m.unlisted

/-- `M[a] <- v`. Writing the byte an unlisted address reads as removes the cell. -/
def Memory.write (m : Memory) (a : Word) (v : Byte) : Memory :=
  if m.unlisted = some v then { m with cells := dropCell m.cells a.toNat }
  else { m with cells := putCell m.cells a.toNat v }

/-- The canonical form: addresses strictly rising and 16 bits wide, no cell equal to what an unlisted address reads
as. -/
abbrev Memory.wf (m : Memory) : Prop :=
  m.cells.Pairwise (fun c d => c.1 < d.1) ∧
    (∀ c ∈ m.cells, c.1 < 65536) ∧ (∀ c ∈ m.cells, some c.2 ≠ m.unlisted)

/-! ## The bus (R52, R53) -/

/-- What the collaborator answers to `fetch(a)` next. -/
def Bus.fetchAnswer (b : Bus) (a : Word) : Byte :=
  match b.answers with
  | v :: _ => v
  | [] => (b.mem.byte? a).getD (Config.freeFetch b.calls a)

/-- What the collaborator answers to `read(a)` next. -/
def Bus.readAnswer (b : Bus) (a : Word) : Byte :=
  match b.answers with
  | v :: _ => v
  | [] => (b.mem.byte? a).getD (Config.freeRead b.calls a)

/-- What the collaborator answers to `input(p)` next: 0xFF under FlatBus (R53, D9; log 9). -/
def Bus.inputAnswer (b : Bus) (p : Byte) : Byte :=
  match b.answers with
  | v :: _ => v
  | [] => if b.mem.fill.isSome then 0xFF#8 else Config.freeInput b.calls p

/-- The bus after a call that returns nothing. -/
def Bus.issued (b : Bus) (c : BusCall) : Bus := { b with trace := b.trace ++ [c] }

/-- The bus after a call that was answered. -/
def Bus.answered (b : Bus) (c : BusCall) : Bus :=
  { b with answers := b.answers.tail, calls := b.calls + 1, trace := b.trace ++ [c] }

/-- The costs of R55: instruction-byte fetch, ordinary read, long read, indexed extra step. -/
def fetchCost : Nat := 4
/-- The ordinary operand read (R55). -/
def readCost : Nat := 3
/-- The "long" operand read (R55). -/
def longReadCost : Nat := 4
/-- The indexed-displacement extra step (R55). -/
def indexCost : Nat := 5

/-- `Tick(n)`: the bus `tick(n)` together with `CYCLES <- CYCLES + n` (R10). -/
def State.tick (s : State) (n : Nat) : State :=
  { s with cycles := s.cycles + n, bus := s.bus.issued (.tick n) }

/-- The state after an answered call. -/
def State.answered (s : State) (c : BusCall) : State := { s with bus := s.bus.answered c }

/-- `Fetch(a)`: `fetch(a)`, then `Tick(4)` (R10). -/
def State.fetch (s : State) (a : Word) : Byte × State :=
  (s.bus.fetchAnswer a, (s.answered (.fetch a)).tick fetchCost)

/-- `MemRead(a, 1)`: `read(a)` at the ordinary cost (R10). -/
def State.memRead (s : State) (a : Word) : Byte × State :=
  (s.bus.readAnswer a, (s.answered (.read a)).tick readCost)

/-- `MemReadLong(a, 1)`: `read(a)` at the long cost (R10). -/
def State.memReadLong (s : State) (a : Word) : Byte × State :=
  (s.bus.readAnswer a, (s.answered (.read a)).tick longReadCost)

/-- `MemWrite(a, 1, v)`: the bus `write(a, v)` (R10); no instruction in scope issues it. The byte is listed, so unscripted
reads and fetches at `a` answer it from then on. DESIGN CHOICE where there is no fill byte: R53 promises this of FlatBus
only (log 17). -/
def State.memWrite (s : State) (a : Word) (v : Byte) : State :=
  { s with bus := { s.bus.issued (.write a v) with mem := s.bus.mem.write a v } }

/-- `In(port)` (R10, R51); no instruction in scope issues it. -/
def State.portIn (s : State) (p : Byte) : Byte × State :=
  (s.bus.inputAnswer p, s.answered (.input p))

/-- `Out(port, v)` (R10, R51): FlatBus does nothing on it (R53); no instruction in scope issues it. -/
def State.portOut (s : State) (p : Byte) (v : Byte) : State :=
  { s with bus := s.bus.issued (.output p v) }

/-! ## Control state -/

/-- `PC <- PC + 1` mod 2^16, after a byte is taken from the instruction stream (R27, R28). -/
def State.advancePc (s : State) : State := { s with pc := s.pc + 1#16 }

/-- `LAST_FETCH <- a` (R35). -/
def State.setLastFetch (s : State) (a : Word) : State := { s with lastFetch := a }

/-- `MEMPTR <- ea` (R33). -/
def State.setMemptr (s : State) (ea : Word) : State := { s with memptr := ea }

/-- `IMODE <- m` (R34). -/
def State.setImode (s : State) (m : IndexMode) : State := { s with imode := m }

/-- `IFF1 <- x; IFF2 <- y` (R32). -/
def State.setIffs (s : State) (x y : Bool) : State := { s with iff1 := x, iff2 := y }

/-- The end of a non-prefix instruction: `IMODE <- Direct` (R107). -/
def State.endInstr (s : State) : State := s.setImode .direct

/-- The mode a prefix selects, for the two prefix rows (R182, R183). -/
def prefixMode? : Instr → Option IndexMode
  | .prefixDD => some .indexedX
  | .prefixFD => some .indexedY
  | _ => none

/-! ## How a step fails (60_exceptions.md R210, R211, R215) -/

/-- `raise DecodeError(opcode, address)`: the core's one exception. It saves nothing and vectors nowhere (R215); the
step has no successor (R211). -/
def raiseDecodeError (opcode : Byte) (address : Word) : Fault := .decodeError opcode address

/-! ## The world outside (70_reset_and_hazards.md R241, 10_state.md R41) -/

/-- An external reset: a fresh construction with a new INIT (R241). The collaborator stays bound; the calls recorded
are those of the new instance. -/
def State.externalReset (s : State) (init : Init) : State :=
  State.construct init s.pAndH { s.bus with trace := [] }

/-- The `halted` flag the host reads (R36, R41). -/
def State.halted (s : State) : Bool :=
  match s.run with
  | .running => false
  | .halted => true

/-- The state with the bytes of `bs` held in memory from address `a` on. -/
def State.placeBytes (s : State) (a : Word) : List Byte → State
  | [] => s
  | b :: bs =>
    ({ s with bus := { s.bus with mem := s.bus.mem.write a b } } : State).placeBytes (a + 1#16) bs

end Sys2Proof.Machine
end

