-- ==== Sys2Proof/Machine/Flags.lean ====
section
/-! DEFINITION. The flags byte: the places of its bits (10_state.md R29), parity (41_alu_logical.md R132) and the flag
function of the logical group (R131). -/

namespace Sys2Proof.Machine

/-- The flags of F (R29): sign, zero, copy of result bit 5, half-carry, copy of result bit 3, parity/overflow,
subtract, carry. -/
inductive Flag where
  | s
  | z
  | y
  | h
  | x
  | pv
  | n
  | c
deriving DecidableEq, Repr

/-- The bit of F that holds a flag (R29). -/
def Flag.bit : Flag → Nat
  | .s => 7
  | .z => 6
  | .y => 5
  | .h => 4
  | .x => 3
  | .pv => 2
  | .n => 1
  | .c => 0

/-- The value of a flag in a flags byte. -/
def Flag.get (fl : Flag) (f : Byte) : Bool := f.getLsbD fl.bit

/-- A flags byte with one flag at the value given and every other bit 0. -/
def Flag.put (fl : Flag) (v : Bool) : Byte := (BitVec.ofBool v).setWidth 8 <<< fl.bit

/-- `popcount(v)`: the number of one bits (00_scope.md R8). -/
def popcount (v : Byte) : Nat := (List.range 8).countP (fun i => v.getLsbD i)

/-- `Parity(r) = 1` when the number of one bits is even (R132). -/
def parity (r : Byte) : Bool := popcount r % 2 == 0

/-- `LogicFlags(r, h)` (R131): all eight bits, from the result and the half-carry value. -/
def logicFlags (r : Byte) (h : Bool) : Byte :=
  Flag.put .s (r.getLsbD 7) ||| Flag.put .z (r == 0#8) ||| Flag.put .y (r.getLsbD 5) ||| Flag.put .h h |||
    Flag.put .x (r.getLsbD 3) ||| Flag.put .pv (parity r) ||| Flag.put .n false ||| Flag.put .c false

/-- The half-carry value an operation gives to `LogicFlags` (R131): P_AND_H for AND, 0 for XOR and OR. -/
def halfCarry (pAndH : Bool) : AluOp → Bool
  | .and => pAndH
  | .xor => false
  | .or => false

end Sys2Proof.Machine
end

