-- ==== Sys2Proof/Machine/Operands.lean ====
section
/-! DEFINITION. Operands of the logical group: the effective address of an indexed operand (30_encoding.md R75,
40_pipeline.md R105), the operand read (41_alu_logical.md R130), and the three action hooks as the execution backend has
them (40_pipeline.md R106). -/

namespace Sys2Proof.Machine

/-- The base of an indexed operand (R105). -/
def State.indexBase (s : State) : IndexReg → Word
  | .ix => s.ix
  | .iy => s.iy

/-- `ea = (base + sext_16(d)) mod 2^16` (R75, R105). -/
def State.indexedAddr (s : State) (p : IndexReg) (d : Byte) : Word := s.indexBase p + sext16 d

/-- The byte a register slot names under the held mode (R74, R130). -/
def State.readSlot (s : State) (m : IndexMode) : Slot → Byte
  | .b => s.readHigh .bc
  | .c => s.readLow .bc
  | .d => s.readHigh .de
  | .e => s.readLow .de
  | .h => s.logH m
  | .l => s.logL m
  | .a => s.a

/-- `Operand(opnd)` (R130): a register read has no bus call; a memory operand is one ordinary read. -/
def State.readOperand (s : State) : Operand → Byte × State
  | .reg z m => (s.readSlot m z, s)
  | .memHl => s.memRead s.hl
  | .memIdx _ _ ea => s.memRead ea

/-- The bitwise operation of an ALU selector (R72, R151). -/
def aluApply : AluOp → Byte → Byte → Byte
  | .and, a, v => a &&& v
  | .xor, a, v => a ^^^ v
  | .or, a, v => a ||| v

/-- `hook.alu(k, opnd)`: read the operand, combine it with A, write A, write F whole (R130, R131, R133 to R150). -/
def State.hookAlu (s : State) (k : AluOp) (opnd : Operand) : State :=
  let (v, s1) := s.readOperand opnd
  let res := aluApply k s1.a v
  (s1.setA res).setF (logicFlags res (halfCarry s1.pAndH k))

/-- `hook.nop()` does nothing (R180). -/
def State.hookNop (s : State) : State := s

/-- `hook.di()` clears both flip-flops (R181). -/
def State.hookDi (s : State) : State := s.setIffs false false

/-- The execution backend: what each hook call does (R106). -/
def State.runHook (s : State) : Descriptor → State
  | .alu k opnd => s.hookAlu k opnd
  | .nop => s.hookNop
  | .di => s.hookDi

/-- An indexed memory operand as the decoder hands it to the hook: the displacement and the effective address (R104,
R105). -/
def State.idxOperand (s : State) (p : IndexReg) (d : Byte) : Operand := .memIdx p d (s.indexedAddr p d)

/-- The descriptor an instruction's one hook call carries (R104, R106); a prefix calls no hook. -/
def State.descriptor? (s : State) : Instr → Option Descriptor
  | .nop => some .nop
  | .andB => some (.alu .and (.reg .b .direct))
  | .andC => some (.alu .and (.reg .c .direct))
  | .andD => some (.alu .and (.reg .d .direct))
  | .andE => some (.alu .and (.reg .e .direct))
  | .andH => some (.alu .and (.reg .h .direct))
  | .andL => some (.alu .and (.reg .l .direct))
  | .andMemHl => some (.alu .and .memHl)
  | .andA => some (.alu .and (.reg .a .direct))
  | .andIxh => some (.alu .and (.reg .h .indexedX))
  | .andIxl => some (.alu .and (.reg .l .indexedX))
  | .andMemIx d => some (.alu .and (s.idxOperand .ix d))
  | .andIyh => some (.alu .and (.reg .h .indexedY))
  | .andIyl => some (.alu .and (.reg .l .indexedY))
  | .andMemIy d => some (.alu .and (s.idxOperand .iy d))
  | .xorB => some (.alu .xor (.reg .b .direct))
  | .xorC => some (.alu .xor (.reg .c .direct))
  | .xorD => some (.alu .xor (.reg .d .direct))
  | .xorE => some (.alu .xor (.reg .e .direct))
  | .xorH => some (.alu .xor (.reg .h .direct))
  | .xorL => some (.alu .xor (.reg .l .direct))
  | .xorMemHl => some (.alu .xor .memHl)
  | .xorA => some (.alu .xor (.reg .a .direct))
  | .xorIxh => some (.alu .xor (.reg .h .indexedX))
  | .xorIxl => some (.alu .xor (.reg .l .indexedX))
  | .xorMemIx d => some (.alu .xor (s.idxOperand .ix d))
  | .xorIyh => some (.alu .xor (.reg .h .indexedY))
  | .xorIyl => some (.alu .xor (.reg .l .indexedY))
  | .xorMemIy d => some (.alu .xor (s.idxOperand .iy d))
  | .orB => some (.alu .or (.reg .b .direct))
  | .orC => some (.alu .or (.reg .c .direct))
  | .orD => some (.alu .or (.reg .d .direct))
  | .orE => some (.alu .or (.reg .e .direct))
  | .orH => some (.alu .or (.reg .h .direct))
  | .orL => some (.alu .or (.reg .l .direct))
  | .orMemHl => some (.alu .or .memHl)
  | .orA => some (.alu .or (.reg .a .direct))
  | .orIxh => some (.alu .or (.reg .h .indexedX))
  | .orIxl => some (.alu .or (.reg .l .indexedX))
  | .orMemIx d => some (.alu .or (s.idxOperand .ix d))
  | .orIyh => some (.alu .or (.reg .h .indexedY))
  | .orIyl => some (.alu .or (.reg .l .indexedY))
  | .orMemIy d => some (.alu .or (s.idxOperand .iy d))
  | .di => some .di
  | .prefixDD => none
  | .prefixFD => none

end Sys2Proof.Machine
end

