-- ==== Sys2Proof/Machine/AluAnd.lean ====
section
/-! DEFINITION. The meanings of the AND rows (41_alu_logical.md R133 to R138): the hook on the row's operand, then the end
of the instruction (40_pipeline.md R107). A form that any mode selects names Direct; its slot does not depend on it. -/

namespace Sys2Proof.Machine

/-- `and b` (R133) -/
def execAndB (s : State) : Host.Outcome State Fault Refusal :=
  .next (s.hookAlu .and (.reg .b .direct)).endInstr

/-- `and c` (R133) -/
def execAndC (s : State) : Host.Outcome State Fault Refusal :=
  .next (s.hookAlu .and (.reg .c .direct)).endInstr

/-- `and d` (R133) -/
def execAndD (s : State) : Host.Outcome State Fault Refusal :=
  .next (s.hookAlu .and (.reg .d .direct)).endInstr

/-- `and e` (R133) -/
def execAndE (s : State) : Host.Outcome State Fault Refusal :=
  .next (s.hookAlu .and (.reg .e .direct)).endInstr

/-- `and h`, under Direct (R133) -/
def execAndH (s : State) : Host.Outcome State Fault Refusal :=
  .next (s.hookAlu .and (.reg .h .direct)).endInstr

/-- `and l`, under Direct (R133) -/
def execAndL (s : State) : Host.Outcome State Fault Refusal :=
  .next (s.hookAlu .and (.reg .l .direct)).endInstr

/-- `and (hl)` (R134) -/
def execAndMemHl (s : State) : Host.Outcome State Fault Refusal :=
  .next (s.hookAlu .and .memHl).endInstr

/-- `and a` (R133) -/
def execAndA (s : State) : Host.Outcome State Fault Refusal :=
  .next (s.hookAlu .and (.reg .a .direct)).endInstr

/-- `and ixh` (R135) -/
def execAndIxh (s : State) : Host.Outcome State Fault Refusal :=
  .next (s.hookAlu .and (.reg .h .indexedX)).endInstr

/-- `and ixl` (R135) -/
def execAndIxl (s : State) : Host.Outcome State Fault Refusal :=
  .next (s.hookAlu .and (.reg .l .indexedX)).endInstr

/-- `and (ix+d)` (R137); the decoder has already taken `d`, written MEMPTR and charged the extra step (R105) -/
def execAndMemIx (d : Byte) (s : State) : Host.Outcome State Fault Refusal :=
  .next (s.hookAlu .and (s.idxOperand .ix d)).endInstr

/-- `and iyh` (R136) -/
def execAndIyh (s : State) : Host.Outcome State Fault Refusal :=
  .next (s.hookAlu .and (.reg .h .indexedY)).endInstr

/-- `and iyl` (R136) -/
def execAndIyl (s : State) : Host.Outcome State Fault Refusal :=
  .next (s.hookAlu .and (.reg .l .indexedY)).endInstr

/-- `and (iy+d)` (R138); the decoder has already taken `d`, written MEMPTR and charged the extra step (R105) -/
def execAndMemIy (d : Byte) (s : State) : Host.Outcome State Fault Refusal :=
  .next (s.hookAlu .and (s.idxOperand .iy d)).endInstr

end Sys2Proof.Machine
end

