-- ==== Sys2Proof/Machine/AluOr.lean ====
section
/-! DEFINITION. The meanings of the OR rows (41_alu_logical.md R145 to R150): the hook on the row's operand, then the end
of the instruction (40_pipeline.md R107). A form that any mode selects names Direct; its slot does not depend on it. -/

namespace Sys2Proof.Machine

/-- `or b` (R145) -/
def execOrB (s : State) : Host.Outcome State Fault Refusal :=
  .next (s.hookAlu .or (.reg .b .direct)).endInstr

/-- `or c` (R145) -/
def execOrC (s : State) : Host.Outcome State Fault Refusal :=
  .next (s.hookAlu .or (.reg .c .direct)).endInstr

/-- `or d` (R145) -/
def execOrD (s : State) : Host.Outcome State Fault Refusal :=
  .next (s.hookAlu .or (.reg .d .direct)).endInstr

/-- `or e` (R145) -/
def execOrE (s : State) : Host.Outcome State Fault Refusal :=
  .next (s.hookAlu .or (.reg .e .direct)).endInstr

/-- `or h`, under Direct (R145) -/
def execOrH (s : State) : Host.Outcome State Fault Refusal :=
  .next (s.hookAlu .or (.reg .h .direct)).endInstr

/-- `or l`, under Direct (R145) -/
def execOrL (s : State) : Host.Outcome State Fault Refusal :=
  .next (s.hookAlu .or (.reg .l .direct)).endInstr

/-- `or (hl)` (R146) -/
def execOrMemHl (s : State) : Host.Outcome State Fault Refusal :=
  .next (s.hookAlu .or .memHl).endInstr

/-- `or a` (R145) -/
def execOrA (s : State) : Host.Outcome State Fault Refusal :=
  .next (s.hookAlu .or (.reg .a .direct)).endInstr

/-- `or ixh` (R147) -/
def execOrIxh (s : State) : Host.Outcome State Fault Refusal :=
  .next (s.hookAlu .or (.reg .h .indexedX)).endInstr

/-- `or ixl` (R147) -/
def execOrIxl (s : State) : Host.Outcome State Fault Refusal :=
  .next (s.hookAlu .or (.reg .l .indexedX)).endInstr

/-- `or (ix+d)` (R149); the decoder has already taken `d`, written MEMPTR and charged the extra step (R105) -/
def execOrMemIx (d : Byte) (s : State) : Host.Outcome State Fault Refusal :=
  .next (s.hookAlu .or (s.idxOperand .ix d)).endInstr

/-- `or iyh` (R148) -/
def execOrIyh (s : State) : Host.Outcome State Fault Refusal :=
  .next (s.hookAlu .or (.reg .h .indexedY)).endInstr

/-- `or iyl` (R148) -/
def execOrIyl (s : State) : Host.Outcome State Fault Refusal :=
  .next (s.hookAlu .or (.reg .l .indexedY)).endInstr

/-- `or (iy+d)` (R150); the decoder has already taken `d`, written MEMPTR and charged the extra step (R105) -/
def execOrMemIy (d : Byte) (s : State) : Host.Outcome State Fault Refusal :=
  .next (s.hookAlu .or (s.idxOperand .iy d)).endInstr

end Sys2Proof.Machine
end

