-- ==== Sys2Proof/Machine/AluXor.lean ====
section
/-! DEFINITION. The meanings of the XOR rows (41_alu_logical.md R139 to R144): the hook on the row's operand, then the end
of the instruction (40_pipeline.md R107). A form that any mode selects names Direct; its slot does not depend on it. -/

namespace Sys2Proof.Machine

/-- `xor b` (R139) -/
def execXorB (s : State) : Host.Outcome State Fault Refusal :=
  .next (s.hookAlu .xor (.reg .b .direct)).endInstr

/-- `xor c` (R139) -/
def execXorC (s : State) : Host.Outcome State Fault Refusal :=
  .next (s.hookAlu .xor (.reg .c .direct)).endInstr

/-- `xor d` (R139) -/
def execXorD (s : State) : Host.Outcome State Fault Refusal :=
  .next (s.hookAlu .xor (.reg .d .direct)).endInstr

/-- `xor e` (R139) -/
def execXorE (s : State) : Host.Outcome State Fault Refusal :=
  .next (s.hookAlu .xor (.reg .e .direct)).endInstr

/-- `xor h`, under Direct (R139) -/
def execXorH (s : State) : Host.Outcome State Fault Refusal :=
  .next (s.hookAlu .xor (.reg .h .direct)).endInstr

/-- `xor l`, under Direct (R139) -/
def execXorL (s : State) : Host.Outcome State Fault Refusal :=
  .next (s.hookAlu .xor (.reg .l .direct)).endInstr

/-- `xor (hl)` (R140) -/
def execXorMemHl (s : State) : Host.Outcome State Fault Refusal :=
  .next (s.hookAlu .xor .memHl).endInstr

/-- `xor a` (R139) -/
def execXorA (s : State) : Host.Outcome State Fault Refusal :=
  .next (s.hookAlu .xor (.reg .a .direct)).endInstr

/-- `xor ixh` (R141) -/
def execXorIxh (s : State) : Host.Outcome State Fault Refusal :=
  .next (s.hookAlu .xor (.reg .h .indexedX)).endInstr

/-- `xor ixl` (R141) -/
def execXorIxl (s : State) : Host.Outcome State Fault Refusal :=
  .next (s.hookAlu .xor (.reg .l .indexedX)).endInstr

/-- `xor (ix+d)` (R143); the decoder has already taken `d`, written MEMPTR and charged the extra step (R105) -/
def execXorMemIx (d : Byte) (s : State) : Host.Outcome State Fault Refusal :=
  .next (s.hookAlu .xor (s.idxOperand .ix d)).endInstr

/-- `xor iyh` (R142) -/
def execXorIyh (s : State) : Host.Outcome State Fault Refusal :=
  .next (s.hookAlu .xor (.reg .h .indexedY)).endInstr

/-- `xor iyl` (R142) -/
def execXorIyl (s : State) : Host.Outcome State Fault Refusal :=
  .next (s.hookAlu .xor (.reg .l .indexedY)).endInstr

/-- `xor (iy+d)` (R144); the decoder has already taken `d`, written MEMPTR and charged the extra step (R105) -/
def execXorMemIy (d : Byte) (s : State) : Host.Outcome State Fault Refusal :=
  .next (s.hookAlu .xor (s.idxOperand .iy d)).endInstr

end Sys2Proof.Machine
end

