-- ==== Sys2Proof/Machine/Control.lean ====
section
/-! DEFINITION. The meanings of NOP, DI and the two index prefixes (42_control.md R180 to R183). -/

namespace Sys2Proof.Machine

/-- `nop` (R180) -/
def execNop (s : State) : Host.Outcome State Fault Refusal :=
  .next s.hookNop.endInstr

/-- `di` (R181) -/
def execDi (s : State) : Host.Outcome State Fault Refusal :=
  .next s.hookDi.endInstr

/-- The prefix 0xDD: `IMODE <- IndexedX`; no hook, no reset of IMODE (R182). -/
def execPrefixDD (s : State) : Host.Outcome State Fault Refusal :=
  .next (s.setImode .indexedX)

/-- The prefix 0xFD: `IMODE <- IndexedY`; no hook, no reset of IMODE (R183). -/
def execPrefixFD (s : State) : Host.Outcome State Fault Refusal :=
  .next (s.setImode .indexedY)

end Sys2Proof.Machine
end

