-- ==== Sys2Proof/Machine/Fetch.lean ====
section
/-! DEFINITION. The decode path of a step, shared by both backends (40_pipeline.md R100 to R106): the opcode fetch, the
decode, and the displacement step of an indexed memory operand. -/

namespace Sys2Proof.Machine

/-- The opcode fetch (R101): `Fetch(PC)`, `LAST_FETCH <- PC`, `PC <- PC + 1`. -/
def State.fetchOpcode (s : State) : Byte × State :=
  let (b, s1) := s.fetch s.pc
  (b, (s1.setLastFetch s.pc).advancePc)

/-- The displacement step (R105): a long read at PC, `PC <- PC + 1`, `MEMPTR <- ea`, `Tick(5)`. -/
def State.fetchDisplacement (s : State) (p : IndexReg) : Byte × State :=
  let (d, s1) := s.memReadLong s.pc
  (d, ((s1.advancePc).setMemptr (s1.indexedAddr p d)).tick indexCost)

/-- The instruction the step takes, and the state in which its hook is called; or the DecodeError (R100, R210) with the
bus as the fetch left it, since the fetch comes before decoding (R101, R211). The mode is read once, before anything is
taken (R103). -/
def State.takeInstr (s : State) : Except (Fault × Bus) (Instr × State) :=
  let (b, s1) := s.fetchOpcode
  match decodeOpcode s.imode b with
  | .error _ => .error (raiseDecodeError b s.pc, s1.bus)
  | .ok (.complete i) => .ok (i, s1)
  | .ok (.displaced k p) =>
    let (d, s2) := s1.fetchDisplacement p
    .ok (aluMemIdx k p d, s2)

/-- The bus when the decode path is over, whether it ended in an instruction or in the DecodeError, under either backend
(R101, R198, R211). -/
def State.takenBus (s : State) : Bus :=
  match s.takeInstr with
  | .error (_, b) => b
  | .ok (_, s1) => s1.bus

end Sys2Proof.Machine
end

