-- ==== Sys2Proof/Machine/Step.lean ====
section
/-! DEFINITION. One `step()` of the machine, with the execution backend bound (40_pipeline.md R100, R109), and the
host's way to place an instruction. -/

namespace Sys2Proof.Machine

/-- `step()` (R100): nothing in Halted (R109); in Running, the decode path and then the instruction's meaning. -/
def step (s : State) : Host.Outcome State Fault Refusal :=
  match s.run with
  | .halted => .next s
  | .running =>
    match s.takeInstr with
    | .error (e, _) => .fault e
    | .ok (i, s1) => exec i s1

/-- The bus after a step, completed or not. A step that raises DecodeError has no next state, but the bus saw its fetch
and tick (R101, R211; log 16): that is all the model says of the machine after it. -/
def busAfterStep (s : State) : Bus :=
  match step s with
  | .next t => t.bus
  | .fault _ => s.takenBus
  | .refused _ => s.takenBus

/-- `s` with a table word where the next step fetches: its bytes in memory at PC, no scripted answer before them, and
RUN at Running, which a fetch needs. Nothing else changes (log 7). -/
def State.withFetchWord (s : State) (nbits w : Nat) : State :=
  ({ s with run := .running, bus := { s.bus with answers := [] } } : State).placeBytes s.pc (tableBytes nbits w)

end Sys2Proof.Machine
end

