-- ==== Sys2Proof/Machine/Disasm.lean ====
section
/-! DEFINITION. The disassembly backend (43_disassembly_backend.md R195 to R198): the text of each hook call, and a step
of the instance that runs the disassembler. It shares the decode path with `step` and is no part of it (R14). -/

namespace Sys2Proof.Machine

/-- The mnemonic of an ALU operation (R196). -/
def aluText : AluOp → String
  | .and => "and"
  | .xor => "xor"
  | .or => "or"

/-- The displacement with its sign, in decimal (R197). -/
def dispText (d : Byte) : String :=
  if 0 ≤ d.toInt then "+" ++ Nat.repr d.toInt.toNat else "-" ++ Nat.repr (-d.toInt).toNat

/-- The text of a register slot under the held mode (R196). -/
def slotText : Slot → IndexMode → String
  | .b, _ => "b"
  | .c, _ => "c"
  | .d, _ => "d"
  | .e, _ => "e"
  | .a, _ => "a"
  | .h, .direct => "h"
  | .h, .indexedX => "ixh"
  | .h, .indexedY => "iyh"
  | .l, .direct => "l"
  | .l, .indexedX => "ixl"
  | .l, .indexedY => "iyl"

/-- The text of an operand selector (R196). -/
def operandText : Operand → String
  | .reg z m => slotText z m
  | .memHl => "(hl)"
  | .memIdx .ix d _ => "(ix" ++ dispText d ++ ")"
  | .memIdx .iy d _ => "(iy" ++ dispText d ++ ")"

/-- The line a hook call appends (R196). -/
def hookText : Descriptor → String
  | .nop => "nop"
  | .di => "di"
  | .alu k opnd => aluText k ++ " " ++ operandText opnd

/-- An engine instance bound to the disassembly backend, with the lines it has emitted (R195). -/
structure Disassembler where
  engine : State
  output : List String
deriving DecidableEq, Repr

/-- One `step()` of the disassembler (R195, R198): the shared decode path and its effects; then the hook appends its
line, reads no operand and writes nothing; then the end of the instruction. A prefix sets IMODE and emits nothing; a
DecodeError emits nothing and is the same outcome. -/
def disasmStep (t : Disassembler) : Host.Outcome Disassembler Fault Refusal :=
  match t.engine.run with
  | .halted => .next t
  | .running =>
    match t.engine.takeInstr with
    | .error (e, _) => .fault e
    | .ok (i, s1) =>
      match prefixMode? i with
      | some m => .next { t with engine := s1.setImode m }
      | none =>
        .next { engine := s1.endInstr, output := t.output ++ ((s1.descriptor? i).map hookText).toList }

end Sys2Proof.Machine
end

