-- ==== Sys2Proof/Safety.lean ====
section
/-! DEFINITION. What claims about runs are stated in: the ends of a run (70_reset_and_hazards.md R247) and the invariant
of a state that construction establishes and every step keeps. -/

namespace Sys2Proof.Machine

/-- `k` calls of `step()` by the host, up to the first fault (R247). -/
def run (k : Nat) (s : State) : Host.Outcome State Fault Refusal := Host.Core.run Sys2Proof.core k s

/-- A normal end after `k` steps, in the state `t` (R247). -/
def NormalEnd (k : Nat) (s t : State) : Prop := run k s = .next t

/-- A fault end within `k` steps, with the record the host gets (R247). -/
def FaultEnd (k : Nat) (s : State) (r : Fault) : Prop := run k s = .fault r

/-- The bus at the end of a run of at most `k` steps: of the end state at a normal end, and at a fault end with the
faulting step's own calls (R211, R247; log 16). -/
def runBus : Nat → State → Bus
  | 0, s => s.bus
  | k + 1, s =>
    match step s with
    | .next t => runBus k t
    | .fault _ => busAfterStep s
    | .refused _ => busAfterStep s

/-- A halted end after `k` steps: the end state is Halted, so every further step leaves it (R109, R247). -/
def HaltedEnd (k : Nat) (s t : State) : Prop := run k s = .next t ∧ t.run = .halted

/-- The cycles a call list charges: the sum of its ticks (20_memory.md R55, 10_state.md R37). -/
def tickSum : List BusCall → Nat
  | [] => 0
  | .tick n :: cs => n + tickSum cs
  | _ :: cs => tickSum cs

/-- The address of the last `fetch` of a call list (R35). -/
def lastFetchOf : List BusCall → Option Word
  | [] => none
  | .fetch a :: cs => some ((lastFetchOf cs).getD a)
  | _ :: cs => lastFetchOf cs

/-- The calls the instructions in scope issue: fetch, read and tick, never write, input or output (R50 to R52). -/
def BusCall.readOnly : BusCall → Bool
  | .fetch _ => true
  | .read _ => true
  | .tick _ => true
  | .write _ _ => false
  | .input _ => false
  | .output _ _ => false

/-- The invariant: memory is canonical; CYCLES is the sum of the costs charged on the bus (R37, R108); LAST_FETCH is the
address of the last fetch (R35); the core has written no memory and touched no port (R50, R51). -/
structure State.Inv (s : State) : Prop where
  memory : s.bus.mem.wf
  cycles : s.cycles = tickSum s.bus.trace
  lastFetch : ∀ a, lastFetchOf s.bus.trace = some a → s.lastFetch = a
  readOnly : ∀ c ∈ s.bus.trace, c.readOnly = true

end Sys2Proof.Machine
end

