-- ==== Sys2Proof/Certificates/Slice0/Obligations.lean ====
section
/-! DEFINITION. The statements. First the spec's own formulas, transcribed a second time without the model's helpers:
halves of a pair by shifts, the flag function in the closed form of 41_alu_logical.md R131, the bus operations as record
updates (00_scope.md R10, 40_pipeline.md R101, R105), and the whole of `step()` from the pseudocode of R100. Then the
statements, which are made in those terms. -/

namespace Sys2Proof.Spec

open Sys2Proof.Machine

/-- Bits 15..8 (R22). -/
def hi (w : Word) : Byte := (w >>> 8).setWidth 8

/-- Bits 7..0 (R22). -/
def lo (w : Word) : Byte := w.setWidth 8

/-- `h ++ l = h*256 + l` (R8). -/
def pair (h l : Byte) : Word := BitVec.ofNat 16 (h.toNat * 256 + l.toNat)

/-- The number of one bits, added up bit by bit (R8). -/
def ones (r : Byte) : Nat :=
  (r.getLsbD 0).toNat + (r.getLsbD 1).toNat + (r.getLsbD 2).toNat + (r.getLsbD 3).toNat +
    (r.getLsbD 4).toNat + (r.getLsbD 5).toNat + (r.getLsbD 6).toNat + (r.getLsbD 7).toNat

/-- `(r & 0xA8) | (r = 0 ? 0x40 : 0) | (h << 4) | (Parity(r) << 2)` (R131, R132). -/
def flags (r : Byte) (h : Bool) : Byte :=
  (r &&& 0xA8#8) ||| (if r = 0x00#8 then 0x40#8 else 0x00#8) ||| (if h then 0x10#8 else 0x00#8) |||
    (if ones r % 2 = 0 then 0x04#8 else 0x00#8)

/-- The end of an ALU instruction with result `r`: A and F written, IMODE back to Direct, nothing else. -/
def result (s : State) (r : Byte) (h : Bool) : State :=
  { s with af := pair r (flags r h), imode := .direct }

/-- `base + sext_16(d)`, the displacement read as a signed integer (R75). -/
def ea (base : Word) (d : Byte) : Word := base + BitVec.ofInt 16 d.toInt

/-- The bus after one answered call and the ticks that follow it. -/
def busAfter (b : Bus) (calls : List BusCall) : Bus :=
  { b with answers := b.answers.drop 1, calls := b.calls + 1, trace := b.trace ++ calls }

/-- `MemRead(a, 1)`: one ordinary read (R10, R55). -/
def afterRead (s : State) (a : Word) : State :=
  { s with cycles := s.cycles + 3, bus := busAfter s.bus [.read a, .tick 3] }

/-- The opcode fetch (R101). -/
def afterFetch (s : State) : State :=
  { s with pc := s.pc + 1#16, lastFetch := s.pc, cycles := s.cycles + 4,
           bus := busAfter s.bus [.fetch s.pc, .tick 4] }

/-- The displacement step on `base` (R105). -/
def afterDisplacement (s : State) (base : Word) : State :=
  { s with pc := s.pc + 1#16, memptr := ea base (s.bus.readAnswer s.pc), cycles := s.cycles + 9,
           bus := busAfter s.bus [.read s.pc, .tick 4, .tick 5] }

/-- `R[A] op v` by the y field (R72). -/
def opValue (y : Nat) (a v : Byte) : Byte :=
  if y = 4 then a &&& v else if y = 5 then a ^^^ v else a ||| v

/-- The register operand of the z field under mode `m` (R73, R74). -/
def slotValue (s : State) (m : IndexMode) (z : Nat) : Byte :=
  let hlm := match m with | .direct => s.hl | .indexedX => s.ix | .indexedY => s.iy
  if z = 0 then hi s.bc else if z = 1 then lo s.bc else if z = 2 then hi s.de else if z = 3 then lo s.de
  else if z = 4 then hi hlm else if z = 5 then lo hlm else hi s.af

/-- `hook.alu` with the operand byte at hand, and the end of the instruction (R131, R107). -/
def alu (s : State) (y : Nat) (v : Byte) : State :=
  result s (opValue y (hi s.af) v) (y = 4 && s.pAndH)

/-- The bytes whose fields are class 2 with y in 4, 5, 6 (R77). -/
def aluByte (b : Byte) : Bool :=
  b.toNat / 64 = 2 && (b.toNat / 8 % 8 = 4 || b.toNat / 8 % 8 = 5 || b.toNat / 8 % 8 = 6)

/-- The bytes the opcode map lists, in any mode (R77). -/
def listed (b : Byte) : Bool :=
  b = 0x00#8 || b = 0xF3#8 || b = 0xDD#8 || b = 0xFD#8 || aluByte b

/-- A byte after which a step takes a displacement, under mode `m` (R80). -/
def takesDisplacement (m : IndexMode) (b : Byte) : Bool :=
  aluByte b && b.toNat % 8 = 6 && m != .direct

/-- `step()`, from the pseudocode of R100. -/
def step (s : State) : Host.Outcome State Fault Refusal :=
  if s.run = .halted then .next s
  else
    let b := s.bus.fetchAnswer s.pc
    let s1 := afterFetch s
    let m := s.imode
    if b = 0xDD#8 then .next { s1 with imode := .indexedX }
    else if b = 0xFD#8 then .next { s1 with imode := .indexedY }
    else if b = 0x00#8 then .next { s1 with imode := .direct }
    else if b = 0xF3#8 then .next { s1 with iff1 := false, iff2 := false, imode := .direct }
    else if aluByte b then
      let k := b.toNat / 8 % 8
      let z := b.toNat % 8
      if z = 6 then
        match m with
        | .direct => .next (alu (afterRead s1 s1.hl) k (s1.bus.readAnswer s1.hl))
        | .indexedX =>
          let s2 := afterDisplacement s1 s1.ix
          .next (alu (afterRead s2 s2.memptr) k (s2.bus.readAnswer s2.memptr))
        | .indexedY =>
          let s2 := afterDisplacement s1 s1.iy
          .next (alu (afterRead s2 s2.memptr) k (s2.bus.readAnswer s2.memptr))
      else .next (alu s1 k (slotValue s1 m z))
    else .fault (.decodeError b s.pc)

/-- Two outcomes that agree on the processor record: the same fault, or next states with one record (R20, R64). -/
def sameProcessor : Host.Outcome State Fault Refusal → Host.Outcome State Fault Refusal → Prop
  | .next s, .next t => s.toProcessor = t.toProcessor
  | .fault e, .fault e' => e = e'
  | .refused r, .refused r' => r = r'
  | _, _ => False

/-- The rows that read a memory operand. -/
def memoryForm : Instr → Bool
  | .andMemHl => true
  | .andMemIx _ => true
  | .andMemIy _ => true
  | .xorMemHl => true
  | .xorMemIx _ => true
  | .xorMemIy _ => true
  | .orMemHl => true
  | .orMemIx _ => true
  | .orMemIy _ => true
  | _ => false

/-- A bus operation of R55: the opcode fetch, the ordinary read, the "long" read, and the extra step with no access. -/
inductive Operation where
  | fetch (a : Word)
  | read (a : Word)
  | longRead (a : Word)
  | extra
deriving DecidableEq, Repr

/-- The cost of a bus operation (R55). -/
def Operation.cost : Operation → Nat
  | .fetch _ => 4
  | .read _ => 3
  | .longRead _ => 4
  | .extra => 5

/-- The calls a bus operation issues: its access and the tick of its cost (R10, R55). -/
def Operation.calls : Operation → List BusCall
  | .fetch a => [.fetch a, .tick 4]
  | .read a => [.read a, .tick 3]
  | .longRead a => [.read a, .tick 4]
  | .extra => [.tick 5]

/-- The bytes the collaborator answers in one step, in order: the opcode; then for an indexed operand the displacement and
the operand, for (HL) the operand (R100, R105, R130). -/
def answersOfStep (s : State) : List Byte :=
  if s.run = .halted then []
  else
    let b := s.bus.fetchAnswer s.pc
    let s1 := afterFetch s
    b :: (if takesDisplacement s.imode b then
        let s2 := afterDisplacement s1 (if s.imode = .indexedX then s.ix else s.iy)
        [s1.bus.readAnswer (s.pc + 1#16), s2.bus.readAnswer s2.memptr]
      else if aluByte b && b.toNat % 8 = 6 then [s1.bus.readAnswer s.hl]
      else [])

/-- The bytes the collaborator answers over `n` steps, in order, up to the first fault. -/
def answersOfRun : Nat → State → List Byte
  | 0, _ => []
  | n + 1, s =>
    answersOfStep s ++ (match Machine.step s with
      | .next t => answersOfRun n t
      | .fault _ => []
      | .refused _ => [])

/-- The displacement in signed decimal, its sign before it (R197). -/
def signedText (d : Byte) : String :=
  if d.toNat < 128 then "+" ++ Nat.repr d.toNat else "-" ++ Nat.repr (256 - d.toNat)

/-- `<op>` of R196. -/
def opText : AluOp → String
  | .and => "and"
  | .xor => "xor"
  | .or => "or"

/-- The assembly text of every row of the opcode map (R77, R196); a prefix has none (R198). -/
def rowText : Instr → Option String
  | .nop => some "nop"
  | .andB => some "and b"
  | .andC => some "and c"
  | .andD => some "and d"
  | .andE => some "and e"
  | .andH => some "and h"
  | .andL => some "and l"
  | .andMemHl => some "and (hl)"
  | .andA => some "and a"
  | .andIxh => some "and ixh"
  | .andIxl => some "and ixl"
  | .andMemIx d => some ("and (ix" ++ signedText d ++ ")")
  | .andIyh => some "and iyh"
  | .andIyl => some "and iyl"
  | .andMemIy d => some ("and (iy" ++ signedText d ++ ")")
  | .xorB => some "xor b"
  | .xorC => some "xor c"
  | .xorD => some "xor d"
  | .xorE => some "xor e"
  | .xorH => some "xor h"
  | .xorL => some "xor l"
  | .xorMemHl => some "xor (hl)"
  | .xorA => some "xor a"
  | .xorIxh => some "xor ixh"
  | .xorIxl => some "xor ixl"
  | .xorMemIx d => some ("xor (ix" ++ signedText d ++ ")")
  | .xorIyh => some "xor iyh"
  | .xorIyl => some "xor iyl"
  | .xorMemIy d => some ("xor (iy" ++ signedText d ++ ")")
  | .orB => some "or b"
  | .orC => some "or c"
  | .orD => some "or d"
  | .orE => some "or e"
  | .orH => some "or h"
  | .orL => some "or l"
  | .orMemHl => some "or (hl)"
  | .orA => some "or a"
  | .orIxh => some "or ixh"
  | .orIxl => some "or ixl"
  | .orMemIx d => some ("or (ix" ++ signedText d ++ ")")
  | .orIyh => some "or iyh"
  | .orIyl => some "or iyl"
  | .orMemIy d => some ("or (iy" ++ signedText d ++ ")")
  | .di => some "di"
  | .prefixDD => none
  | .prefixFD => none

end Sys2Proof.Spec

open Sys2Proof Sys2Proof.Machine

/-! ## Encoding -/

/-- Words written out from 30_encoding.md R83 and the opcode map R77, one family each. -/
def Obligations.SpecWordsDecode : Prop :=
  decode .direct [0b10101111#8] = .ok (.xorA, []) ∧
  decode .direct [0b10100110#8] = .ok (.andMemHl, []) ∧
  decode .indexedX [0b10110101#8] = .ok (.orIxl, []) ∧
  decode .indexedY [0b10100110#8, 0xFE#8] = .ok (.andMemIy 0xFE#8, []) ∧
  decode .direct [0b00000000#8] = .ok (.nop, []) ∧
  decode .direct [0b11110011#8] = .ok (.di, []) ∧
  decode .direct [0b11011101#8] = .ok (.prefixDD, []) ∧
  decode .direct [0b11111101#8] = .ok (.prefixFD, []) ∧
  decode .direct [0xED#8] = .error (.noTableEntry 0xED#8)

/-- R77, R83: decoding the encoding of an instruction, under a mode that selects it, gives it back, whatever bytes
follow. -/
def Obligations.DecodeInvertsEncode : Prop :=
  ∀ (m : IndexMode) (i : Instr) (rest : List Byte), i.wf m = true → decode m (encode i ++ rest) = .ok (i, rest)

/-- R77, the other way: bytes that decode are the encoding of the instruction read, which the mode selects. -/
def Obligations.DecodedBytesAreTheEncoding : Prop :=
  ∀ (m : IndexMode) (bs : List Byte) (i : Instr) (rest : List Byte),
    decode m bs = .ok (i, rest) → i.wf m = true ∧ bs = encode i ++ rest

/-- R78: under every mode exactly the bytes the map does not list are rejected, each by its own name; 228 of 256. -/
def Obligations.UnlistedBytesAreRejected : Prop :=
  (∀ (m : IndexMode) (b : Byte), decodeOpcode m b = .error (.noTableEntry b) ↔ Spec.listed b = false) ∧
  (∀ (m : IndexMode) (b : Byte), Spec.listed b = true → ∃ o, decodeOpcode m b = .ok o) ∧
  ((List.range 256).filter (fun n => !Spec.listed (BitVec.ofNat 8 n))).length = 228

/-- R79: the decoding of a byte depends on IMODE only in class-2 rows with z = 4, 5 or 6. -/
def Obligations.ModeMattersOnlyInHLAndMemorySlots : Prop :=
  ∀ (m m' : IndexMode) (b : Byte), decodeOpcode m b ≠ decodeOpcode m' b →
    Spec.aluByte b = true ∧ (b.toNat % 8 = 4 ∨ b.toNat % 8 = 5 ∨ b.toNat % 8 = 6)

/-- R80: the first byte and IMODE alone say how many bytes a step takes: two where a displacement follows, else one. -/
def Obligations.FirstByteAndModeGiveTheLength : Prop :=
  ∀ (m : IndexMode) (b : Byte) (bs : List Byte) (i : Instr) (rest : List Byte), decode m (b :: bs) = .ok (i, rest) →
    (b :: bs).length = (if Spec.takesDisplacement m b then 2 else 1) + rest.length

/-! ## The register file -/

/-- R22, R23: after `write_pair(p, v)` the pair and its halves read `v`; writing one half leaves the other half; and no
other pair changes. -/
def Obligations.PairAndHalfAccessors : Prop :=
  ∀ (s : State) (p : Pair) (v : Word) (b : Byte),
    (s.writePair p v).readPair p = v ∧ (s.writePair p v).readHigh p = Spec.hi v ∧
    (s.writePair p v).readLow p = Spec.lo v ∧
    (s.writeHigh p b).readHigh p = b ∧ (s.writeHigh p b).readLow p = s.readLow p ∧
    (s.writeLow p b).readLow p = b ∧ (s.writeLow p b).readHigh p = s.readHigh p ∧
    ∀ q, q ≠ p → (s.writePair p v).readPair q = s.readPair q ∧ (s.writeHigh p b).readPair q = s.readPair q ∧
      (s.writeLow p b).readPair q = s.readPair q

/-- R25: logical H and L read the halves of HL, IX or IY by the mode; a write goes to the location the read names; under
IndexedX HL is untouched, under Direct IX and IY are untouched; the slots B, C, D, E and A do not depend on the mode; no
instruction writes a logical H or L. -/
def Obligations.LogicalHLFollowsIndexMode : Prop :=
  ∀ (s : State) (v : Byte),
    s.logH .direct = Spec.hi s.hl ∧ s.logH .indexedX = Spec.hi s.ix ∧ s.logH .indexedY = Spec.hi s.iy ∧
    s.logL .direct = Spec.lo s.hl ∧ s.logL .indexedX = Spec.lo s.ix ∧ s.logL .indexedY = Spec.lo s.iy ∧
    s.setLogH .direct v = { s with hl := Spec.pair v (Spec.lo s.hl) } ∧
    s.setLogH .indexedX v = { s with ix := Spec.pair v (Spec.lo s.ix) } ∧
    s.setLogH .indexedY v = { s with iy := Spec.pair v (Spec.lo s.iy) } ∧
    s.setLogL .direct v = { s with hl := Spec.pair (Spec.hi s.hl) v } ∧
    s.setLogL .indexedX v = { s with ix := Spec.pair (Spec.hi s.ix) v } ∧
    s.setLogL .indexedY v = { s with iy := Spec.pair (Spec.hi s.iy) v } ∧
    (∀ m, (s.setLogH m v).logH m = v ∧ (s.setLogL m v).logL m = v) ∧
    (∀ m m' r, r ≠ .h → r ≠ .l → s.readSlot m r = s.readSlot m' r) ∧
    (∀ i t, exec i s = .next t → ∀ m, t.logH m = s.logH m ∧ t.logL m = s.logL m)

/-! ## Construction -/

/-- R40, R240, R241: construction, and an external reset, give PC = 0, CYCLES = 0, Direct, Running and INIT's values,
for EVERY INIT and either P_AND_H. -/
def Obligations.ConstructionValues : Prop :=
  ∀ (init : Init) (h : Bool) (b : Bus) (s : State),
    ∀ t, (t = State.construct init h b ∨ t = s.externalReset init) →
      t.pc = 0x0000#16 ∧ t.cycles = 0 ∧ t.imode = .direct ∧ t.run = .running ∧
      t.af = init.af ∧ t.bc = init.bc ∧ t.de = init.de ∧ t.hl = init.hl ∧ t.ix = init.ix ∧ t.iy = init.iy ∧
      t.memptr = init.memptr ∧ t.lastFetch = init.lastFetch ∧ t.iff1 = init.iff1 ∧ t.iff2 = init.iff2

/-- What reset leaves, of the values the spec gives (R40); the INIT values are the model's (log 4) and are not here. That
reset's memory lists nothing is the model's choice (log 3). -/
def Obligations.ResetValues : Prop :=
  State.reset.pc = 0x0000#16 ∧ State.reset.cycles = 0 ∧ State.reset.imode = .direct ∧ State.reset.run = .running ∧
  ∀ a, State.reset.bus.mem.byte? a = none

/-! ## Flags -/

/-- R29, R131: each flag of LogicFlags by its name, at its place in F. -/
def Obligations.LogicFlagsBitByBit : Prop :=
  ∀ (r : Byte) (h : Bool),
    Flag.get .s (logicFlags r h) = r.getLsbD 7 ∧ Flag.get .z (logicFlags r h) = decide (r = 0#8) ∧
    Flag.get .y (logicFlags r h) = r.getLsbD 5 ∧ Flag.get .h (logicFlags r h) = h ∧
    Flag.get .x (logicFlags r h) = r.getLsbD 3 ∧ Flag.get .pv (logicFlags r h) = decide (Spec.ones r % 2 = 0) ∧
    Flag.get .n (logicFlags r h) = false ∧ Flag.get .c (logicFlags r h) = false ∧
    (∀ f : Byte, Flag.get .s f = f.getLsbD 7 ∧ Flag.get .z f = f.getLsbD 6 ∧ Flag.get .y f = f.getLsbD 5 ∧
      Flag.get .h f = f.getLsbD 4 ∧ Flag.get .x f = f.getLsbD 3 ∧ Flag.get .pv f = f.getLsbD 2 ∧
      Flag.get .n f = f.getLsbD 1 ∧ Flag.get .c f = f.getLsbD 0)

/-- R132: parity is set exactly for an even number of one bits, so for 0x00 and 0xFF; P/V holds parity, never an
overflow. That P/V is bit 2 is not R132's: the flag places are the spec's general knowledge (I13, log 8). -/
def Obligations.ParityIsEvenPopulationCount : Prop :=
  ∀ r : Byte, (parity r = true ↔ Spec.ones r % 2 = 0) ∧ parity 0x00#8 = true ∧ parity 0xFF#8 = true ∧
    ∀ h, (logicFlags r h).getLsbD 2 = parity r

/-! ## Results: every instruction completes, with exactly this state -/

/-- R180 to R183: NOP, DI and the two prefixes complete from every state; NOP and DI end with IMODE at Direct. -/
def Obligations.ControlInstructionsComplete : Prop :=
  ∀ s : State,
    exec .nop s = .next { s with imode := .direct } ∧
    exec .di s = .next { s with iff1 := false, iff2 := false, imode := .direct } ∧
    exec .prefixDD s = .next { s with imode := .indexedX } ∧
    exec .prefixFD s = .next { s with imode := .indexedY }

/-- AND with a register (R133): A and F written, IMODE back to Direct, nothing else, from every state. -/
def Obligations.AndRegisterResult : Prop :=
  ∀ s : State,
    exec .andB s = .next (Spec.result s (Spec.hi s.af &&& Spec.hi s.bc) s.pAndH) ∧
    exec .andC s = .next (Spec.result s (Spec.hi s.af &&& Spec.lo s.bc) s.pAndH) ∧
    exec .andD s = .next (Spec.result s (Spec.hi s.af &&& Spec.hi s.de) s.pAndH) ∧
    exec .andE s = .next (Spec.result s (Spec.hi s.af &&& Spec.lo s.de) s.pAndH) ∧
    exec .andH s = .next (Spec.result s (Spec.hi s.af &&& Spec.hi s.hl) s.pAndH) ∧
    exec .andL s = .next (Spec.result s (Spec.hi s.af &&& Spec.lo s.hl) s.pAndH) ∧
    exec .andA s = .next (Spec.result s (Spec.hi s.af &&& Spec.hi s.af) s.pAndH)

/-- AND with a half of IX or IY (R135, R136): HL and the index register are unchanged. -/
def Obligations.AndIndexHalfResult : Prop :=
  ∀ s : State,
    exec .andIxh s = .next (Spec.result s (Spec.hi s.af &&& Spec.hi s.ix) s.pAndH) ∧
    exec .andIxl s = .next (Spec.result s (Spec.hi s.af &&& Spec.lo s.ix) s.pAndH) ∧
    exec .andIyh s = .next (Spec.result s (Spec.hi s.af &&& Spec.hi s.iy) s.pAndH) ∧
    exec .andIyl s = .next (Spec.result s (Spec.hi s.af &&& Spec.lo s.iy) s.pAndH)

/-- AND with a memory byte (R134, R137, R138): one ordinary read, at HL or at base plus signed displacement, then A and F.
The displacement step (R105) is the decode path's, stated in `IndexedStepEffect`. -/
def Obligations.AndMemoryResult : Prop :=
  ∀ (s : State) (d : Byte),
    exec .andMemHl s =
      .next (Spec.result (Spec.afterRead s s.hl) (Spec.hi s.af &&& s.bus.readAnswer s.hl) s.pAndH) ∧
    exec (.andMemIx d) s =
      .next (Spec.result (Spec.afterRead s (Spec.ea s.ix d)) (Spec.hi s.af &&& s.bus.readAnswer (Spec.ea s.ix d)) s.pAndH) ∧
    exec (.andMemIy d) s =
      .next (Spec.result (Spec.afterRead s (Spec.ea s.iy d)) (Spec.hi s.af &&& s.bus.readAnswer (Spec.ea s.iy d)) s.pAndH)

/-- XOR with a register (R139): A and F written, IMODE back to Direct, nothing else, from every state. -/
def Obligations.XorRegisterResult : Prop :=
  ∀ s : State,
    exec .xorB s = .next (Spec.result s (Spec.hi s.af ^^^ Spec.hi s.bc) false) ∧
    exec .xorC s = .next (Spec.result s (Spec.hi s.af ^^^ Spec.lo s.bc) false) ∧
    exec .xorD s = .next (Spec.result s (Spec.hi s.af ^^^ Spec.hi s.de) false) ∧
    exec .xorE s = .next (Spec.result s (Spec.hi s.af ^^^ Spec.lo s.de) false) ∧
    exec .xorH s = .next (Spec.result s (Spec.hi s.af ^^^ Spec.hi s.hl) false) ∧
    exec .xorL s = .next (Spec.result s (Spec.hi s.af ^^^ Spec.lo s.hl) false) ∧
    exec .xorA s = .next (Spec.result s (Spec.hi s.af ^^^ Spec.hi s.af) false)

/-- XOR with a half of IX or IY (R141, R142): HL and the index register are unchanged. -/
def Obligations.XorIndexHalfResult : Prop :=
  ∀ s : State,
    exec .xorIxh s = .next (Spec.result s (Spec.hi s.af ^^^ Spec.hi s.ix) false) ∧
    exec .xorIxl s = .next (Spec.result s (Spec.hi s.af ^^^ Spec.lo s.ix) false) ∧
    exec .xorIyh s = .next (Spec.result s (Spec.hi s.af ^^^ Spec.hi s.iy) false) ∧
    exec .xorIyl s = .next (Spec.result s (Spec.hi s.af ^^^ Spec.lo s.iy) false)

/-- XOR with a memory byte (R140, R143, R144): one ordinary read, at HL or at base plus signed displacement, then A and F.
The displacement step (R105) is the decode path's, stated in `IndexedStepEffect`. -/
def Obligations.XorMemoryResult : Prop :=
  ∀ (s : State) (d : Byte),
    exec .xorMemHl s =
      .next (Spec.result (Spec.afterRead s s.hl) (Spec.hi s.af ^^^ s.bus.readAnswer s.hl) false) ∧
    exec (.xorMemIx d) s =
      .next (Spec.result (Spec.afterRead s (Spec.ea s.ix d)) (Spec.hi s.af ^^^ s.bus.readAnswer (Spec.ea s.ix d)) false) ∧
    exec (.xorMemIy d) s =
      .next (Spec.result (Spec.afterRead s (Spec.ea s.iy d)) (Spec.hi s.af ^^^ s.bus.readAnswer (Spec.ea s.iy d)) false)

/-- OR with a register (R145): A and F written, IMODE back to Direct, nothing else, from every state. -/
def Obligations.OrRegisterResult : Prop :=
  ∀ s : State,
    exec .orB s = .next (Spec.result s (Spec.hi s.af ||| Spec.hi s.bc) false) ∧
    exec .orC s = .next (Spec.result s (Spec.hi s.af ||| Spec.lo s.bc) false) ∧
    exec .orD s = .next (Spec.result s (Spec.hi s.af ||| Spec.hi s.de) false) ∧
    exec .orE s = .next (Spec.result s (Spec.hi s.af ||| Spec.lo s.de) false) ∧
    exec .orH s = .next (Spec.result s (Spec.hi s.af ||| Spec.hi s.hl) false) ∧
    exec .orL s = .next (Spec.result s (Spec.hi s.af ||| Spec.lo s.hl) false) ∧
    exec .orA s = .next (Spec.result s (Spec.hi s.af ||| Spec.hi s.af) false)

/-- OR with a half of IX or IY (R147, R148): HL and the index register are unchanged. -/
def Obligations.OrIndexHalfResult : Prop :=
  ∀ s : State,
    exec .orIxh s = .next (Spec.result s (Spec.hi s.af ||| Spec.hi s.ix) false) ∧
    exec .orIxl s = .next (Spec.result s (Spec.hi s.af ||| Spec.lo s.ix) false) ∧
    exec .orIyh s = .next (Spec.result s (Spec.hi s.af ||| Spec.hi s.iy) false) ∧
    exec .orIyl s = .next (Spec.result s (Spec.hi s.af ||| Spec.lo s.iy) false)

/-- OR with a memory byte (R146, R149, R150): one ordinary read, at HL or at base plus signed displacement, then A and F.
The displacement step (R105) is the decode path's, stated in `IndexedStepEffect`. -/
def Obligations.OrMemoryResult : Prop :=
  ∀ (s : State) (d : Byte),
    exec .orMemHl s =
      .next (Spec.result (Spec.afterRead s s.hl) (Spec.hi s.af ||| s.bus.readAnswer s.hl) false) ∧
    exec (.orMemIx d) s =
      .next (Spec.result (Spec.afterRead s (Spec.ea s.ix d)) (Spec.hi s.af ||| s.bus.readAnswer (Spec.ea s.ix d)) false) ∧
    exec (.orMemIy d) s =
      .next (Spec.result (Spec.afterRead s (Spec.ea s.iy d)) (Spec.hi s.af ||| s.bus.readAnswer (Spec.ea s.iy d)) false)

/-- R152: AND with 0xFF, OR with 0x00 and XOR with 0x00 leave A; AND with 0x00 gives A = 0 and F = 0x44, 0x54 with
P_AND_H = 1; for every operand form. XOR A gives A = 0, F = 0x44 from every state; AND A and OR A leave A. -/
def Obligations.AlgebraicLawsOfTheLogicalGroup : Prop :=
  (∀ (s : State) (o : Operand),
    ((s.readOperand o).1 = 0xFF#8 → (s.hookAlu .and o).a = s.a) ∧
    ((s.readOperand o).1 = 0x00#8 → (s.hookAlu .or o).a = s.a ∧ (s.hookAlu .xor o).a = s.a ∧
      (s.hookAlu .and o).a = 0x00#8 ∧ (s.hookAlu .and o).f = if s.pAndH then 0x54#8 else 0x44#8)) ∧
  (∀ s : State, exec .xorA s = .next { s with af := 0x0044#16, imode := .direct } ∧
    (∃ t, exec .andA s = .next t ∧ t.a = s.a) ∧ (∃ t, exec .orA s = .next t ∧ t.a = s.a))

/-! ## Flags at the level of instructions and steps -/

/-- R30: an ALU instruction writes all of F from its inputs, so the F before it makes no difference to the state after
it (which F it writes: the result statements); NOP, DI and the prefixes do not write F. -/
def Obligations.AluWritesAllOfFlags : Prop :=
  (∀ (s : State) (f : Byte) (i : Instr) (k : AluOp) (o : Operand), s.descriptor? i = some (.alu k o) →
    exec i (s.setF f) = exec i s ∧ ∃ t, exec i s = .next t) ∧
  (∀ (s : State) (i : Instr), i = .nop ∨ i = .di ∨ i = .prefixDD ∨ i = .prefixFD →
    ∃ t, exec i s = .next t ∧ t.f = s.f)

/-- R31: no step reads F: with another F before it, a step does the same, F after it being either the same byte or the
one that was put there; F at construction is INIT's. -/
def Obligations.NoStepReadsFlags : Prop :=
  (∀ (s t : State) (f : Byte), step s = .next t →
    step (s.setF f) = .next t ∨ step (s.setF f) = .next (t.setF f)) ∧
  (∀ (s : State) (f : Byte) (e : Fault), step s = .fault e → step (s.setF f) = .fault e) ∧
  (∀ (init : Init) (h : Bool) (b : Bus), (State.construct init h b).f = Spec.lo init.af)

/-- R131, D18: the parameter P_AND_H changes nothing but bit 4 of F, and that only after AND. -/
def Obligations.HalfCarryParameterTouchesOnlyH : Prop :=
  ∀ (s t : State) (h : Bool), step s = .next t →
    ∃ t', step { s with pAndH := h } = .next t' ∧ t'.toProcessor = { t.toProcessor with af := t'.af } ∧
      t'.a = t.a ∧ (∀ j, j ≠ 4 → t'.f.getLsbD j = t.f.getLsbD j) ∧
      (¬ (s.run = .running ∧ Spec.aluByte (s.bus.fetchAnswer s.pc) = true ∧
          (s.bus.fetchAnswer s.pc).toNat / 8 % 8 = 4) → t'.af = t.af)

/-! ## Frames -/

/-- The frame of every instruction (R26, R30, R32 to R36, R107): IMODE ends as the prefix's mode or Direct, AF changes
only in the ALU rows, IFF1 and IFF2 only in DI, no other register changes, no instruction stores to memory, and only a
memory form touches the bus or CYCLES. -/
def Obligations.InstructionFrame : Prop :=
  ∀ (i : Instr) (s t : State), exec i s = .next t →
    t.bc = s.bc ∧ t.de = s.de ∧ t.hl = s.hl ∧ t.ix = s.ix ∧ t.iy = s.iy ∧
    t.pc = s.pc ∧ t.memptr = s.memptr ∧ t.lastFetch = s.lastFetch ∧ t.run = s.run ∧ t.pAndH = s.pAndH ∧
    (i ≠ .di → t.iff1 = s.iff1 ∧ t.iff2 = s.iff2) ∧
    (i = .nop ∨ i = .di ∨ i = .prefixDD ∨ i = .prefixFD → t.af = s.af) ∧
    t.imode = (if i = .prefixDD then .indexedX else if i = .prefixFD then .indexedY else .direct) ∧
    (∀ a, t.bus.mem.byte? a = s.bus.mem.byte? a) ∧
    (Spec.memoryForm i = false → t.bus = s.bus ∧ t.cycles = s.cycles)

/-- R26, R50: no step writes BC, DE, HL, IX, IY or a byte of memory; AF changes only after an ALU byte. -/
def Obligations.StepWritesNoGeneralRegisterButAF : Prop :=
  ∀ s t : State, step s = .next t →
    t.bc = s.bc ∧ t.de = s.de ∧ t.hl = s.hl ∧ t.ix = s.ix ∧ t.iy = s.iy ∧ t.pAndH = s.pAndH ∧
    (∀ a, t.bus.mem.byte? a = s.bus.mem.byte? a) ∧
    (Spec.aluByte (s.bus.fetchAnswer s.pc) = false → t.af = s.af)

/-- R32: DI is the only instruction that writes the flip-flops, and it writes 0 to both; no step reads them. -/
def Obligations.FlipFlopsWrittenOnlyByDi : Prop :=
  (∀ s : State, ∃ t, exec .di s = .next t ∧ t.iff1 = false ∧ t.iff2 = false) ∧
  (∀ (i : Instr) (s t : State), i ≠ .di → exec i s = .next t → t.iff1 = s.iff1 ∧ t.iff2 = s.iff2) ∧
  (∀ (s t : State) (x y : Bool), step s = .next t →
    step (s.setIffs x y) = .next t ∨ step (s.setIffs x y) = .next (t.setIffs x y)) ∧
  (∀ (s : State) (x y : Bool) (e : Fault), step s = .fault e → step (s.setIffs x y) = .fault e)

/-- R33, R39: no step reads MEMPTR: with another MEMPTR before it, a step differs at most in MEMPTR after it. -/
def Obligations.NoStepReadsMemptr : Prop :=
  ∀ (s : State) (x : Word),
    (∀ t, step s = .next t → step (s.setMemptr x) = .next t ∨ step (s.setMemptr x) = .next (t.setMemptr x)) ∧
    (∀ e, step s = .fault e → step (s.setMemptr x) = .fault e)

/-! ## The step -/

/-- R100, R104: when the bytes the bus answers at PC decode to an instruction, a step in Running is that instruction's
meaning, in the state after the opcode fetch and, for a two-byte instruction, the displacement step. -/
def Obligations.StepRunsTheDecodedInstruction : Prop :=
  ∀ (s : State) (i : Instr), s.run = .running →
    (decode s.imode [s.bus.fetchAnswer s.pc] = .ok (i, []) → step s = exec i (Spec.afterFetch s)) ∧
    (s.imode = .indexedX →
      decode s.imode [s.bus.fetchAnswer s.pc, (Spec.afterFetch s).bus.readAnswer (s.pc + 1#16)] = .ok (i, []) →
      step s = exec i (Spec.afterDisplacement (Spec.afterFetch s) s.ix)) ∧
    (s.imode = .indexedY →
      decode s.imode [s.bus.fetchAnswer s.pc, (Spec.afterFetch s).bus.readAnswer (s.pc + 1#16)] = .ok (i, []) →
      step s = exec i (Spec.afterDisplacement (Spec.afterFetch s) s.iy))

/-- R100: the machine's step, built from decoder, instruction type and one meaning per row, is the pseudocode of R100 on
the bits of the byte, from every state. -/
def Obligations.StepIsThePseudocode : Prop :=
  ∀ s : State, step s = Spec.step s

/-- R78, R110, R210, R211: a step in Running on a listed byte completes; on any other it is the DecodeError with that
byte and the address it was fetched from; nothing else faults, and nothing is refused. -/
def Obligations.DecodeErrorExactlyOnUnlistedBytes : Prop :=
  ∀ s : State,
    (s.run = .running → Spec.listed (s.bus.fetchAnswer s.pc) = true → ∃ t, step s = .next t) ∧
    (∀ e, step s = .fault e ↔ s.run = .running ∧ Spec.listed (s.bus.fetchAnswer s.pc) = false ∧
      e = .decodeError (s.bus.fetchAnswer s.pc) s.pc) ∧
    (∀ r, step s ≠ .refused r)

/-- R101, R198, R211: a byte that raises DecodeError has been fetched and charged: the bus saw `fetch(PC)` and `tick(4)`,
gave one answer, and nothing else of it changed, under the execution backend and the disassembler alike; after a step that
completes the bus is the next state's (log 16; the calls are the model's record, log 6). -/
def Obligations.FaultingStepHasFetchedAndCharged : Prop :=
  (∀ (s : State) (e : Fault), step s = .fault e →
    e = .decodeError (s.bus.fetchAnswer s.pc) s.pc ∧ busAfterStep s = Spec.busAfter s.bus [.fetch s.pc, .tick 4]) ∧
  (∀ (s : State) (out : List String) (e : Fault), disasmStep { engine := s, output := out } = .fault e →
    s.takenBus = Spec.busAfter s.bus [.fetch s.pc, .tick 4]) ∧
  (∀ s t : State, step s = .next t → busAfterStep s = t.bus)

/-- R211, R247: at a fault end the last calls the bus saw are the fetch from the recorded address and its tick, after calls
that only fetch, read and tick, and every byte of memory is as at the start; at a normal end the bus is the end state's
(log 6, log 16). -/
def Obligations.FaultEndSawTheFetchOfItsRecord : Prop :=
  (∀ (k : Nat) (s : State) (opcode : Byte) (address : Word), FaultEnd k s (.decodeError opcode address) →
    (∃ cs, (runBus k s).trace = s.bus.trace ++ cs ++ [.fetch address, .tick 4] ∧ ∀ c ∈ cs, c.readOnly = true) ∧
    ∀ a, (runBus k s).mem.byte? a = s.bus.mem.byte? a) ∧
  (∀ (k : Nat) (s t : State), NormalEnd k s t → runBus k s = t.bus)

/-- R27, R35, R101, R105: a step moves PC by the bytes it takes, modulo 2^16, and LAST_FETCH is the opcode's address. -/
def Obligations.StepMovesPcAndLastFetch : Prop :=
  ∀ s t : State, s.run = .running → step s = .next t →
    t.pc = s.pc + (if Spec.takesDisplacement s.imode (s.bus.fetchAnswer s.pc) then 2#16 else 1#16) ∧
    t.lastFetch = s.pc

/-- R107, R182, R183: after a step IMODE is the prefix's mode, and after any other instruction Direct. -/
def Obligations.IndexModeAfterAStep : Prop :=
  ∀ s t : State, s.run = .running → step s = .next t →
    t.imode = if s.bus.fetchAnswer s.pc = 0xDD#8 then .indexedX
      else if s.bus.fetchAnswer s.pc = 0xFD#8 then .indexedY else .direct

/-- R33, R105: MEMPTR changes only in an indexed memory operand's step, and then it is the effective address. -/
def Obligations.MemptrIsTheIndexedAddress : Prop :=
  ∀ s t : State, s.run = .running → step s = .next t →
    let d := (Spec.afterFetch s).bus.readAnswer (s.pc + 1#16)
    t.memptr = if Spec.takesDisplacement s.imode (s.bus.fetchAnswer s.pc) then
        (if s.imode = .indexedX then Spec.ea s.ix d else Spec.ea s.iy d)
      else s.memptr

/-- R75: the effective address is the base plus the signed displacement, modulo 2^16. -/
def Obligations.EffectiveAddressIsSignedAndWraps : Prop :=
  ∀ (s : State) (d : Byte),
    ((s.indexedAddr .ix d).toNat : Int) = ((s.ix.toNat : Int) + d.toInt) % 65536 ∧
    ((s.indexedAddr .iy d).toNat : Int) = ((s.iy.toNat : Int) + d.toInt) % 65536

/-- R36, R109, R222, R247: a step in Halted changes nothing, so a halted end stays; and no run enters or leaves
Halted. -/
def Obligations.HaltedIsFinalAndNeverEntered : Prop :=
  (∀ (k : Nat) (s : State), s.run = .halted → run k s = .next s) ∧
  (∀ (k j : Nat) (s t : State), HaltedEnd k s t → NormalEnd (k + j) s t) ∧
  (∀ (k : Nat) (s t : State), run k s = .next t → t.run = s.run)

/-! ## Cycles and the bus -/

/-- R108 with R55: a completed step is a list of bus operations, each issuing its access and the tick of its cost, 4 for a
fetch, 3 for a read, 4 for a long read, 5 for the extra step, and CYCLES grows by the sum of those costs; the long read is
the displacement's, and the extra step goes with it; a hook performs ordinary reads at most, and adds cycles only so. The
operations are read off the model's own record of calls (log 6). -/
def Obligations.CyclesAreTheBusCosts : Prop :=
  (∀ s t : State, step s = .next t →
    ∃ ops : List Spec.Operation, t.bus.trace = s.bus.trace ++ ops.flatMap Spec.Operation.calls ∧
      t.cycles = s.cycles + (ops.map Spec.Operation.cost).sum ∧
      (∀ a, Spec.Operation.longRead a ∈ ops →
        Spec.takesDisplacement s.imode (s.bus.fetchAnswer s.pc) = true ∧ a = s.pc + 1#16) ∧
      (Spec.Operation.extra ∈ ops ↔
        s.run = .running ∧ Spec.takesDisplacement s.imode (s.bus.fetchAnswer s.pc) = true)) ∧
  (∀ (s : State) (d : Descriptor),
    ∃ ops : List Spec.Operation, (∀ o ∈ ops, ∃ a, o = .read a) ∧
      (s.runHook d).bus.trace = s.bus.trace ++ ops.flatMap Spec.Operation.calls ∧
      (s.runHook d).cycles = s.cycles + (ops.map Spec.Operation.cost).sum)

/-- R245: 16 cycles for an indexed memory operand's step, 7 for (HL), 4 for every other instruction and prefix. -/
def Obligations.CyclesPerInstruction : Prop :=
  ∀ s t : State, s.run = .running → step s = .next t →
    t.cycles = s.cycles +
      (if Spec.takesDisplacement s.imode (s.bus.fetchAnswer s.pc) then 16
       else if Spec.aluByte (s.bus.fetchAnswer s.pc) && (s.bus.fetchAnswer s.pc).toNat % 8 = 6 then 7 else 4)

/-- R55, R56, R59, R105: the bus calls of a step, in order: the fetch; for an indexed operand the displacement read, the
extra step and the operand read; for (HL) the operand read; each access followed by its tick, and nothing more. -/
def Obligations.BusCallsOfAStepInOrder : Prop :=
  ∀ s t : State, s.run = .running → step s = .next t →
    t.bus.trace = s.bus.trace ++ [.fetch s.pc, .tick 4] ++
      (if Spec.takesDisplacement s.imode (s.bus.fetchAnswer s.pc) then
        [.read (s.pc + 1#16), .tick 4, .tick 5, .read t.memptr, .tick 3]
       else if Spec.aluByte (s.bus.fetchAnswer s.pc) && (s.bus.fetchAnswer s.pc).toNat % 8 = 6 then
        [.read s.hl, .tick 3]
       else [])

/-- R53, log 1: under FlatBus (no scripted answer, a fill byte) `fetch` and `read` answer the byte memory holds, a write
is seen by both at its address and nowhere else, `input` answers 0xFF and `output` leaves memory. -/
def Obligations.FlatBusAnswersWhatWasWritten : Prop :=
  ∀ (s : State) (a b : Word) (v p q : Byte), s.bus.answers = [] → s.bus.mem.fill.isSome = true →
    some (s.bus.fetchAnswer a) = s.bus.mem.byte? a ∧ s.bus.readAnswer a = s.bus.fetchAnswer a ∧
    (s.memWrite a v).bus.readAnswer b = (if b = a then v else s.bus.readAnswer b) ∧
    (s.memWrite a v).bus.fetchAnswer b = (if b = a then v else s.bus.fetchAnswer b) ∧
    (s.portIn p).1 = 0xFF#8 ∧ (s.portOut p q).bus.mem = s.bus.mem

/-- Log 3: the canonical form is unique: memories that read alike everywhere are equal data. -/
def Obligations.CanonicalMemoriesThatReadAlikeAreEqual : Prop :=
  ∀ m m' : Memory, m.wf → m'.wf → m.unlisted = m'.unlisted → (∀ a, m.byte? a = m'.byte? a) → m = m'

/-- R53, log 1: whatever the collaborator answers, over any run, there is a script of three answers for each step that
makes the same run, whatever follows it: the scripted answers stand for every BUS, one that answers from memory too. -/
def Obligations.EveryCollaboratorHasAScript : Prop :=
  ∀ (n : Nat) (s : State), ∃ l : List Byte, l.length = 3 * n ∧
    ∀ r, Spec.sameProcessor (run n s) (run n { s with bus := { s.bus with answers := l ++ r } })

/-- R64 for scripted collaborators (the script is the model's form of BUS, log 1): identical processor states and one
script, of at least three answers for each step, give, over any number of steps, identical states and cycle counts, or the
same fault, whatever else the two collaborators hold. Every collaborator: `RunDeterminedByAnswersReceived`. -/
def Obligations.RunDeterminedByBusAnswers : Prop :=
  ∀ (n : Nat) (s s' : State) (l r r' : List Byte),
    s.toProcessor = s'.toProcessor → s.pAndH = s'.pAndH → 3 * n ≤ l.length →
    s.bus.answers = l ++ r → s'.bus.answers = l ++ r' →
    Spec.sameProcessor (run n s) (run n s')

/-- R64 for every collaborator the model has (log 1), whether it answers from a script, from memory or freely: two machines
with one processor state and parameter that receive the same bytes, call by call, over a run have the same states and cycle
counts, or the same fault. -/
def Obligations.RunDeterminedByAnswersReceived : Prop :=
  ∀ (n : Nat) (s s' : State), s.toProcessor = s'.toProcessor → s.pAndH = s'.pAndH →
    Spec.answersOfRun n s = Spec.answersOfRun n s' → Spec.sameProcessor (run n s) (run n s')

/-! ## The invariant -/

/-- Log 3, R37, R240: the invariant holds at reset, after every construction on an unused canonical bus, and after an
external reset. -/
def Obligations.InvariantHoldsAtConstruction : Prop :=
  State.reset.Inv ∧
  (∀ (init : Init) (h : Bool) (b : Bus), b.mem.wf → b.trace = [] → (State.construct init h b).Inv) ∧
  (∀ (s : State) (init : Init), s.Inv → (s.externalReset init).Inv)

/-- Every step keeps the invariant: memory stays canonical, CYCLES stays the sum of the ticks, LAST_FETCH stays the
address of the last fetch, and the core still has written no memory and touched no port (R35, R37, R50, R51). -/
def Obligations.StepKeepsTheInvariant : Prop :=
  ∀ s t : State, s.Inv → step s = .next t → t.Inv

/-! ## Several steps -/

/-- R81: a chain of prefixes is as many steps of 4 cycles; the last prefix decides the mode; nothing else happens. -/
def Obligations.LastPrefixOfAChainWins : Prop :=
  ∀ (ps : List Byte) (last : Byte) (s : State) (rest : List Byte),
    (∀ p ∈ ps ++ [last], p = 0xDD#8 ∨ p = 0xFD#8) → s.run = .running → s.bus.answers = ps ++ [last] ++ rest →
    ∃ t, run (ps.length + 1) s = .next t ∧
      t.imode = (if last = 0xDD#8 then .indexedX else .indexedY) ∧
      t.pc = s.pc + BitVec.ofNat 16 (ps.length + 1) ∧ t.cycles = s.cycles + 4 * (ps.length + 1) ∧
      t.af = s.af ∧ t.memptr = s.memptr ∧ t.bus.answers = rest

/-- R137, R143, R149 and R138, R144, R150 with their prefix step: the whole instruction as a program writes it, over its
two steps, for every displacement and operand byte the bus answers: A, F, MEMPTR, PC + 3, CYCLES + 20, IMODE Direct. -/
def Obligations.IndexedInstructionOverTwoSteps : Prop :=
  ∀ (s : State) (b d v : Byte) (rest : List Byte), s.run = .running → b = 0xA6#8 ∨ b = 0xAE#8 ∨ b = 0xB6#8 →
    let res := Spec.opValue (b.toNat / 8 % 8) (Spec.hi s.af) v
    let af := Spec.pair res (Spec.flags res (b = 0xA6#8 && s.pAndH))
    (s.bus.answers = 0xDD#8 :: b :: d :: v :: rest → ∃ t, run 2 s = .next t ∧
      t.toProcessor = { s.toProcessor with
        af := af, memptr := Spec.ea s.ix d, pc := s.pc + 3#16, lastFetch := s.pc + 1#16,
        imode := .direct, cycles := s.cycles + 20 }) ∧
    (s.bus.answers = 0xFD#8 :: b :: d :: v :: rest → ∃ t, run 2 s = .next t ∧
      t.toProcessor = { s.toProcessor with
        af := af, memptr := Spec.ea s.iy d, pc := s.pc + 3#16, lastFetch := s.pc + 1#16,
        imode := .direct, cycles := s.cycles + 20 })

/-- 95_test_vectors.md W6 (the source's end-to-end example), for every INIT and either P_AND_H. -/
def Obligations.XorThenNopFromConstruction : Prop :=
  ∀ (init : Init) (h : Bool) (b : Bus) (rest : List Byte), b.answers = 0xAF#8 :: 0x00#8 :: rest →
    ∃ s1 s2, run 1 (State.construct init h b) = .next s1 ∧ run 2 (State.construct init h b) = .next s2 ∧
      s1.a = 0x00#8 ∧ s1.f = 0x44#8 ∧ s1.pc = 0x0001#16 ∧ s1.cycles = 4 ∧ s1.lastFetch = 0x0000#16 ∧
      s2.a = 0x00#8 ∧ s2.f = 0x44#8 ∧ s2.pc = 0x0002#16 ∧ s2.cycles = 8 ∧ s2.lastFetch = 0x0001#16

/-! ## The disassembly backend -/

/-- R196, R197: the text of every hook call: NOP, DI, and each operation with every operand selector, all slots under all
modes and every displacement; the displacement in signed decimal. -/
def Obligations.DisassemblyText : Prop :=
  hookText .nop = "nop" ∧ hookText .di = "di" ∧ (∀ d : Byte, dispText d = Spec.signedText d) ∧
  ∀ k : AluOp,
    (∀ m, hookText (.alu k (.reg .b m)) = Spec.opText k ++ " b" ∧ hookText (.alu k (.reg .c m)) = Spec.opText k ++ " c" ∧
      hookText (.alu k (.reg .d m)) = Spec.opText k ++ " d" ∧ hookText (.alu k (.reg .e m)) = Spec.opText k ++ " e" ∧
      hookText (.alu k (.reg .a m)) = Spec.opText k ++ " a") ∧
    hookText (.alu k (.reg .h .direct)) = Spec.opText k ++ " h" ∧
    hookText (.alu k (.reg .h .indexedX)) = Spec.opText k ++ " ixh" ∧
    hookText (.alu k (.reg .h .indexedY)) = Spec.opText k ++ " iyh" ∧
    hookText (.alu k (.reg .l .direct)) = Spec.opText k ++ " l" ∧
    hookText (.alu k (.reg .l .indexedX)) = Spec.opText k ++ " ixl" ∧
    hookText (.alu k (.reg .l .indexedY)) = Spec.opText k ++ " iyl" ∧
    hookText (.alu k .memHl) = Spec.opText k ++ " (hl)" ∧
    (∀ d ea, hookText (.alu k (.memIdx .ix d ea)) = Spec.opText k ++ " (ix" ++ Spec.signedText d ++ ")" ∧
      hookText (.alu k (.memIdx .iy d ea)) = Spec.opText k ++ " (iy" ++ Spec.signedText d ++ ")")

/-- R77, R196, R198: the hook call of every row prints the row's own text; a prefix calls no hook and prints nothing. -/
def Obligations.RowsDisassembleToTheirText : Prop :=
  ∀ (s : State) (i : Instr), (s.descriptor? i).map hookText = Spec.rowText i

/-- R106, R195, R198: the disassembler shares the decode path: it faults alike, and its engine ends with the same PC,
LAST_FETCH, MEMPTR and IMODE; it reads no operand (CYCLES is less by that read) and writes no register, flip-flop or RUN;
its output grows by the text of the hook call of the instruction the bytes at PC decode to, and by nothing for a prefix. -/
def Obligations.DisassemblerSharesTheDecodePath : Prop :=
  ∀ (s : State) (out : List String), s.run = .running →
    (∀ e, step s = .fault e ↔ disasmStep { engine := s, output := out } = .fault e) ∧
    (∀ t, step s = .next t → ∃ t', disasmStep { engine := s, output := out } = .next t' ∧
      t'.engine.pc = t.pc ∧ t'.engine.lastFetch = t.lastFetch ∧ t'.engine.memptr = t.memptr ∧
      t'.engine.imode = t.imode ∧
      t.cycles = t'.engine.cycles +
        (if Spec.aluByte (s.bus.fetchAnswer s.pc) && (s.bus.fetchAnswer s.pc).toNat % 8 = 6 then 3 else 0) ∧
      t'.engine.af = s.af ∧ t'.engine.bc = s.bc ∧ t'.engine.de = s.de ∧ t'.engine.hl = s.hl ∧
      t'.engine.ix = s.ix ∧ t'.engine.iy = s.iy ∧ t'.engine.iff1 = s.iff1 ∧ t'.engine.iff2 = s.iff2 ∧
      t'.engine.run = s.run ∧
      ∃ i rest,
        decode s.imode [s.bus.fetchAnswer s.pc, (Spec.afterFetch s).bus.readAnswer (s.pc + 1#16)] = .ok (i, rest) ∧
        (if i = .prefixDD ∨ i = .prefixFD then t'.output = out
         else ∃ d, s.descriptor? i = some d ∧ t'.output = out ++ [hookText d]))
end

