-- ==== Sys2Proof/Laws/State.lean ====
section
/-! SUPPORT. One lemma per field per update of State, each true by definition, so that no later proof unfolds a record
update. -/

namespace Sys2Proof.Machine

/-! ## tick -/

@[simp] theorem State.tick_af (s : State) (n : Nat) : (s.tick n).af = s.af := rfl
@[simp] theorem State.tick_bc (s : State) (n : Nat) : (s.tick n).bc = s.bc := rfl
@[simp] theorem State.tick_de (s : State) (n : Nat) : (s.tick n).de = s.de := rfl
@[simp] theorem State.tick_hl (s : State) (n : Nat) : (s.tick n).hl = s.hl := rfl
@[simp] theorem State.tick_ix (s : State) (n : Nat) : (s.tick n).ix = s.ix := rfl
@[simp] theorem State.tick_iy (s : State) (n : Nat) : (s.tick n).iy = s.iy := rfl
@[simp] theorem State.tick_pc (s : State) (n : Nat) : (s.tick n).pc = s.pc := rfl
@[simp] theorem State.tick_memptr (s : State) (n : Nat) : (s.tick n).memptr = s.memptr := rfl
@[simp] theorem State.tick_lastFetch (s : State) (n : Nat) : (s.tick n).lastFetch = s.lastFetch := rfl
@[simp] theorem State.tick_iff1 (s : State) (n : Nat) : (s.tick n).iff1 = s.iff1 := rfl
@[simp] theorem State.tick_iff2 (s : State) (n : Nat) : (s.tick n).iff2 = s.iff2 := rfl
@[simp] theorem State.tick_imode (s : State) (n : Nat) : (s.tick n).imode = s.imode := rfl
@[simp] theorem State.tick_run (s : State) (n : Nat) : (s.tick n).run = s.run := rfl
@[simp] theorem State.tick_cycles (s : State) (n : Nat) : (s.tick n).cycles = s.cycles + n := rfl
@[simp] theorem State.tick_bus (s : State) (n : Nat) : (s.tick n).bus = s.bus.issued (.tick n) := rfl
@[simp] theorem State.tick_pAndH (s : State) (n : Nat) : (s.tick n).pAndH = s.pAndH := rfl

/-! ## answered -/

@[simp] theorem State.answered_af (s : State) (c : BusCall) : (s.answered c).af = s.af := rfl
@[simp] theorem State.answered_bc (s : State) (c : BusCall) : (s.answered c).bc = s.bc := rfl
@[simp] theorem State.answered_de (s : State) (c : BusCall) : (s.answered c).de = s.de := rfl
@[simp] theorem State.answered_hl (s : State) (c : BusCall) : (s.answered c).hl = s.hl := rfl
@[simp] theorem State.answered_ix (s : State) (c : BusCall) : (s.answered c).ix = s.ix := rfl
@[simp] theorem State.answered_iy (s : State) (c : BusCall) : (s.answered c).iy = s.iy := rfl
@[simp] theorem State.answered_pc (s : State) (c : BusCall) : (s.answered c).pc = s.pc := rfl
@[simp] theorem State.answered_memptr (s : State) (c : BusCall) : (s.answered c).memptr = s.memptr := rfl
@[simp] theorem State.answered_lastFetch (s : State) (c : BusCall) : (s.answered c).lastFetch = s.lastFetch := rfl
@[simp] theorem State.answered_iff1 (s : State) (c : BusCall) : (s.answered c).iff1 = s.iff1 := rfl
@[simp] theorem State.answered_iff2 (s : State) (c : BusCall) : (s.answered c).iff2 = s.iff2 := rfl
@[simp] theorem State.answered_imode (s : State) (c : BusCall) : (s.answered c).imode = s.imode := rfl
@[simp] theorem State.answered_run (s : State) (c : BusCall) : (s.answered c).run = s.run := rfl
@[simp] theorem State.answered_cycles (s : State) (c : BusCall) : (s.answered c).cycles = s.cycles := rfl
@[simp] theorem State.answered_bus (s : State) (c : BusCall) : (s.answered c).bus = s.bus.answered c := rfl
@[simp] theorem State.answered_pAndH (s : State) (c : BusCall) : (s.answered c).pAndH = s.pAndH := rfl

/-! ## memWrite -/

@[simp] theorem State.memWrite_af (s : State) (a : Word) (v : Byte) : (s.memWrite a v).af = s.af := rfl
@[simp] theorem State.memWrite_bc (s : State) (a : Word) (v : Byte) : (s.memWrite a v).bc = s.bc := rfl
@[simp] theorem State.memWrite_de (s : State) (a : Word) (v : Byte) : (s.memWrite a v).de = s.de := rfl
@[simp] theorem State.memWrite_hl (s : State) (a : Word) (v : Byte) : (s.memWrite a v).hl = s.hl := rfl
@[simp] theorem State.memWrite_ix (s : State) (a : Word) (v : Byte) : (s.memWrite a v).ix = s.ix := rfl
@[simp] theorem State.memWrite_iy (s : State) (a : Word) (v : Byte) : (s.memWrite a v).iy = s.iy := rfl
@[simp] theorem State.memWrite_pc (s : State) (a : Word) (v : Byte) : (s.memWrite a v).pc = s.pc := rfl
@[simp] theorem State.memWrite_memptr (s : State) (a : Word) (v : Byte) : (s.memWrite a v).memptr = s.memptr := rfl
@[simp] theorem State.memWrite_lastFetch (s : State) (a : Word) (v : Byte) : (s.memWrite a v).lastFetch = s.lastFetch := rfl
@[simp] theorem State.memWrite_iff1 (s : State) (a : Word) (v : Byte) : (s.memWrite a v).iff1 = s.iff1 := rfl
@[simp] theorem State.memWrite_iff2 (s : State) (a : Word) (v : Byte) : (s.memWrite a v).iff2 = s.iff2 := rfl
@[simp] theorem State.memWrite_imode (s : State) (a : Word) (v : Byte) : (s.memWrite a v).imode = s.imode := rfl
@[simp] theorem State.memWrite_run (s : State) (a : Word) (v : Byte) : (s.memWrite a v).run = s.run := rfl
@[simp] theorem State.memWrite_cycles (s : State) (a : Word) (v : Byte) : (s.memWrite a v).cycles = s.cycles := rfl
@[simp] theorem State.memWrite_bus (s : State) (a : Word) (v : Byte) : (s.memWrite a v).bus = { s.bus.issued (.write a v) with mem := s.bus.mem.write a v } := rfl
@[simp] theorem State.memWrite_pAndH (s : State) (a : Word) (v : Byte) : (s.memWrite a v).pAndH = s.pAndH := rfl

/-! ## portOut -/

@[simp] theorem State.portOut_af (s : State) (p v : Byte) : (s.portOut p v).af = s.af := rfl
@[simp] theorem State.portOut_bc (s : State) (p v : Byte) : (s.portOut p v).bc = s.bc := rfl
@[simp] theorem State.portOut_de (s : State) (p v : Byte) : (s.portOut p v).de = s.de := rfl
@[simp] theorem State.portOut_hl (s : State) (p v : Byte) : (s.portOut p v).hl = s.hl := rfl
@[simp] theorem State.portOut_ix (s : State) (p v : Byte) : (s.portOut p v).ix = s.ix := rfl
@[simp] theorem State.portOut_iy (s : State) (p v : Byte) : (s.portOut p v).iy = s.iy := rfl
@[simp] theorem State.portOut_pc (s : State) (p v : Byte) : (s.portOut p v).pc = s.pc := rfl
@[simp] theorem State.portOut_memptr (s : State) (p v : Byte) : (s.portOut p v).memptr = s.memptr := rfl
@[simp] theorem State.portOut_lastFetch (s : State) (p v : Byte) : (s.portOut p v).lastFetch = s.lastFetch := rfl
@[simp] theorem State.portOut_iff1 (s : State) (p v : Byte) : (s.portOut p v).iff1 = s.iff1 := rfl
@[simp] theorem State.portOut_iff2 (s : State) (p v : Byte) : (s.portOut p v).iff2 = s.iff2 := rfl
@[simp] theorem State.portOut_imode (s : State) (p v : Byte) : (s.portOut p v).imode = s.imode := rfl
@[simp] theorem State.portOut_run (s : State) (p v : Byte) : (s.portOut p v).run = s.run := rfl
@[simp] theorem State.portOut_cycles (s : State) (p v : Byte) : (s.portOut p v).cycles = s.cycles := rfl
@[simp] theorem State.portOut_bus (s : State) (p v : Byte) : (s.portOut p v).bus = s.bus.issued (.output p v) := rfl
@[simp] theorem State.portOut_pAndH (s : State) (p v : Byte) : (s.portOut p v).pAndH = s.pAndH := rfl

/-! ## advancePc -/

@[simp] theorem State.advancePc_af (s : State) : (s.advancePc).af = s.af := rfl
@[simp] theorem State.advancePc_bc (s : State) : (s.advancePc).bc = s.bc := rfl
@[simp] theorem State.advancePc_de (s : State) : (s.advancePc).de = s.de := rfl
@[simp] theorem State.advancePc_hl (s : State) : (s.advancePc).hl = s.hl := rfl
@[simp] theorem State.advancePc_ix (s : State) : (s.advancePc).ix = s.ix := rfl
@[simp] theorem State.advancePc_iy (s : State) : (s.advancePc).iy = s.iy := rfl
@[simp] theorem State.advancePc_pc (s : State) : (s.advancePc).pc = s.pc + 1#16 := rfl
@[simp] theorem State.advancePc_memptr (s : State) : (s.advancePc).memptr = s.memptr := rfl
@[simp] theorem State.advancePc_lastFetch (s : State) : (s.advancePc).lastFetch = s.lastFetch := rfl
@[simp] theorem State.advancePc_iff1 (s : State) : (s.advancePc).iff1 = s.iff1 := rfl
@[simp] theorem State.advancePc_iff2 (s : State) : (s.advancePc).iff2 = s.iff2 := rfl
@[simp] theorem State.advancePc_imode (s : State) : (s.advancePc).imode = s.imode := rfl
@[simp] theorem State.advancePc_run (s : State) : (s.advancePc).run = s.run := rfl
@[simp] theorem State.advancePc_cycles (s : State) : (s.advancePc).cycles = s.cycles := rfl
@[simp] theorem State.advancePc_bus (s : State) : (s.advancePc).bus = s.bus := rfl
@[simp] theorem State.advancePc_pAndH (s : State) : (s.advancePc).pAndH = s.pAndH := rfl

/-! ## setLastFetch -/

@[simp] theorem State.setLastFetch_af (s : State) (a : Word) : (s.setLastFetch a).af = s.af := rfl
@[simp] theorem State.setLastFetch_bc (s : State) (a : Word) : (s.setLastFetch a).bc = s.bc := rfl
@[simp] theorem State.setLastFetch_de (s : State) (a : Word) : (s.setLastFetch a).de = s.de := rfl
@[simp] theorem State.setLastFetch_hl (s : State) (a : Word) : (s.setLastFetch a).hl = s.hl := rfl
@[simp] theorem State.setLastFetch_ix (s : State) (a : Word) : (s.setLastFetch a).ix = s.ix := rfl
@[simp] theorem State.setLastFetch_iy (s : State) (a : Word) : (s.setLastFetch a).iy = s.iy := rfl
@[simp] theorem State.setLastFetch_pc (s : State) (a : Word) : (s.setLastFetch a).pc = s.pc := rfl
@[simp] theorem State.setLastFetch_memptr (s : State) (a : Word) : (s.setLastFetch a).memptr = s.memptr := rfl
@[simp] theorem State.setLastFetch_lastFetch (s : State) (a : Word) : (s.setLastFetch a).lastFetch = a := rfl
@[simp] theorem State.setLastFetch_iff1 (s : State) (a : Word) : (s.setLastFetch a).iff1 = s.iff1 := rfl
@[simp] theorem State.setLastFetch_iff2 (s : State) (a : Word) : (s.setLastFetch a).iff2 = s.iff2 := rfl
@[simp] theorem State.setLastFetch_imode (s : State) (a : Word) : (s.setLastFetch a).imode = s.imode := rfl
@[simp] theorem State.setLastFetch_run (s : State) (a : Word) : (s.setLastFetch a).run = s.run := rfl
@[simp] theorem State.setLastFetch_cycles (s : State) (a : Word) : (s.setLastFetch a).cycles = s.cycles := rfl
@[simp] theorem State.setLastFetch_bus (s : State) (a : Word) : (s.setLastFetch a).bus = s.bus := rfl
@[simp] theorem State.setLastFetch_pAndH (s : State) (a : Word) : (s.setLastFetch a).pAndH = s.pAndH := rfl

/-! ## setMemptr -/

@[simp] theorem State.setMemptr_af (s : State) (a : Word) : (s.setMemptr a).af = s.af := rfl
@[simp] theorem State.setMemptr_bc (s : State) (a : Word) : (s.setMemptr a).bc = s.bc := rfl
@[simp] theorem State.setMemptr_de (s : State) (a : Word) : (s.setMemptr a).de = s.de := rfl
@[simp] theorem State.setMemptr_hl (s : State) (a : Word) : (s.setMemptr a).hl = s.hl := rfl
@[simp] theorem State.setMemptr_ix (s : State) (a : Word) : (s.setMemptr a).ix = s.ix := rfl
@[simp] theorem State.setMemptr_iy (s : State) (a : Word) : (s.setMemptr a).iy = s.iy := rfl
@[simp] theorem State.setMemptr_pc (s : State) (a : Word) : (s.setMemptr a).pc = s.pc := rfl
@[simp] theorem State.setMemptr_memptr (s : State) (a : Word) : (s.setMemptr a).memptr = a := rfl
@[simp] theorem State.setMemptr_lastFetch (s : State) (a : Word) : (s.setMemptr a).lastFetch = s.lastFetch := rfl
@[simp] theorem State.setMemptr_iff1 (s : State) (a : Word) : (s.setMemptr a).iff1 = s.iff1 := rfl
@[simp] theorem State.setMemptr_iff2 (s : State) (a : Word) : (s.setMemptr a).iff2 = s.iff2 := rfl
@[simp] theorem State.setMemptr_imode (s : State) (a : Word) : (s.setMemptr a).imode = s.imode := rfl
@[simp] theorem State.setMemptr_run (s : State) (a : Word) : (s.setMemptr a).run = s.run := rfl
@[simp] theorem State.setMemptr_cycles (s : State) (a : Word) : (s.setMemptr a).cycles = s.cycles := rfl
@[simp] theorem State.setMemptr_bus (s : State) (a : Word) : (s.setMemptr a).bus = s.bus := rfl
@[simp] theorem State.setMemptr_pAndH (s : State) (a : Word) : (s.setMemptr a).pAndH = s.pAndH := rfl

/-! ## setImode -/

@[simp] theorem State.setImode_af (s : State) (m : IndexMode) : (s.setImode m).af = s.af := rfl
@[simp] theorem State.setImode_bc (s : State) (m : IndexMode) : (s.setImode m).bc = s.bc := rfl
@[simp] theorem State.setImode_de (s : State) (m : IndexMode) : (s.setImode m).de = s.de := rfl
@[simp] theorem State.setImode_hl (s : State) (m : IndexMode) : (s.setImode m).hl = s.hl := rfl
@[simp] theorem State.setImode_ix (s : State) (m : IndexMode) : (s.setImode m).ix = s.ix := rfl
@[simp] theorem State.setImode_iy (s : State) (m : IndexMode) : (s.setImode m).iy = s.iy := rfl
@[simp] theorem State.setImode_pc (s : State) (m : IndexMode) : (s.setImode m).pc = s.pc := rfl
@[simp] theorem State.setImode_memptr (s : State) (m : IndexMode) : (s.setImode m).memptr = s.memptr := rfl
@[simp] theorem State.setImode_lastFetch (s : State) (m : IndexMode) : (s.setImode m).lastFetch = s.lastFetch := rfl
@[simp] theorem State.setImode_iff1 (s : State) (m : IndexMode) : (s.setImode m).iff1 = s.iff1 := rfl
@[simp] theorem State.setImode_iff2 (s : State) (m : IndexMode) : (s.setImode m).iff2 = s.iff2 := rfl
@[simp] theorem State.setImode_imode (s : State) (m : IndexMode) : (s.setImode m).imode = m := rfl
@[simp] theorem State.setImode_run (s : State) (m : IndexMode) : (s.setImode m).run = s.run := rfl
@[simp] theorem State.setImode_cycles (s : State) (m : IndexMode) : (s.setImode m).cycles = s.cycles := rfl
@[simp] theorem State.setImode_bus (s : State) (m : IndexMode) : (s.setImode m).bus = s.bus := rfl
@[simp] theorem State.setImode_pAndH (s : State) (m : IndexMode) : (s.setImode m).pAndH = s.pAndH := rfl

/-! ## setIffs -/

@[simp] theorem State.setIffs_af (s : State) (x y : Bool) : (s.setIffs x y).af = s.af := rfl
@[simp] theorem State.setIffs_bc (s : State) (x y : Bool) : (s.setIffs x y).bc = s.bc := rfl
@[simp] theorem State.setIffs_de (s : State) (x y : Bool) : (s.setIffs x y).de = s.de := rfl
@[simp] theorem State.setIffs_hl (s : State) (x y : Bool) : (s.setIffs x y).hl = s.hl := rfl
@[simp] theorem State.setIffs_ix (s : State) (x y : Bool) : (s.setIffs x y).ix = s.ix := rfl
@[simp] theorem State.setIffs_iy (s : State) (x y : Bool) : (s.setIffs x y).iy = s.iy := rfl
@[simp] theorem State.setIffs_pc (s : State) (x y : Bool) : (s.setIffs x y).pc = s.pc := rfl
@[simp] theorem State.setIffs_memptr (s : State) (x y : Bool) : (s.setIffs x y).memptr = s.memptr := rfl
@[simp] theorem State.setIffs_lastFetch (s : State) (x y : Bool) : (s.setIffs x y).lastFetch = s.lastFetch := rfl
@[simp] theorem State.setIffs_iff1 (s : State) (x y : Bool) : (s.setIffs x y).iff1 = x := rfl
@[simp] theorem State.setIffs_iff2 (s : State) (x y : Bool) : (s.setIffs x y).iff2 = y := rfl
@[simp] theorem State.setIffs_imode (s : State) (x y : Bool) : (s.setIffs x y).imode = s.imode := rfl
@[simp] theorem State.setIffs_run (s : State) (x y : Bool) : (s.setIffs x y).run = s.run := rfl
@[simp] theorem State.setIffs_cycles (s : State) (x y : Bool) : (s.setIffs x y).cycles = s.cycles := rfl
@[simp] theorem State.setIffs_bus (s : State) (x y : Bool) : (s.setIffs x y).bus = s.bus := rfl
@[simp] theorem State.setIffs_pAndH (s : State) (x y : Bool) : (s.setIffs x y).pAndH = s.pAndH := rfl

/-! ## setA -/

@[simp] theorem State.setA_af (s : State) (v : Byte) : (s.setA v).af = mkPair v (loByte s.af) := rfl
@[simp] theorem State.setA_bc (s : State) (v : Byte) : (s.setA v).bc = s.bc := rfl
@[simp] theorem State.setA_de (s : State) (v : Byte) : (s.setA v).de = s.de := rfl
@[simp] theorem State.setA_hl (s : State) (v : Byte) : (s.setA v).hl = s.hl := rfl
@[simp] theorem State.setA_ix (s : State) (v : Byte) : (s.setA v).ix = s.ix := rfl
@[simp] theorem State.setA_iy (s : State) (v : Byte) : (s.setA v).iy = s.iy := rfl
@[simp] theorem State.setA_pc (s : State) (v : Byte) : (s.setA v).pc = s.pc := rfl
@[simp] theorem State.setA_memptr (s : State) (v : Byte) : (s.setA v).memptr = s.memptr := rfl
@[simp] theorem State.setA_lastFetch (s : State) (v : Byte) : (s.setA v).lastFetch = s.lastFetch := rfl
@[simp] theorem State.setA_iff1 (s : State) (v : Byte) : (s.setA v).iff1 = s.iff1 := rfl
@[simp] theorem State.setA_iff2 (s : State) (v : Byte) : (s.setA v).iff2 = s.iff2 := rfl
@[simp] theorem State.setA_imode (s : State) (v : Byte) : (s.setA v).imode = s.imode := rfl
@[simp] theorem State.setA_run (s : State) (v : Byte) : (s.setA v).run = s.run := rfl
@[simp] theorem State.setA_cycles (s : State) (v : Byte) : (s.setA v).cycles = s.cycles := rfl
@[simp] theorem State.setA_bus (s : State) (v : Byte) : (s.setA v).bus = s.bus := rfl
@[simp] theorem State.setA_pAndH (s : State) (v : Byte) : (s.setA v).pAndH = s.pAndH := rfl

/-! ## setF -/

@[simp] theorem State.setF_af (s : State) (v : Byte) : (s.setF v).af = mkPair (hiByte s.af) v := rfl
@[simp] theorem State.setF_bc (s : State) (v : Byte) : (s.setF v).bc = s.bc := rfl
@[simp] theorem State.setF_de (s : State) (v : Byte) : (s.setF v).de = s.de := rfl
@[simp] theorem State.setF_hl (s : State) (v : Byte) : (s.setF v).hl = s.hl := rfl
@[simp] theorem State.setF_ix (s : State) (v : Byte) : (s.setF v).ix = s.ix := rfl
@[simp] theorem State.setF_iy (s : State) (v : Byte) : (s.setF v).iy = s.iy := rfl
@[simp] theorem State.setF_pc (s : State) (v : Byte) : (s.setF v).pc = s.pc := rfl
@[simp] theorem State.setF_memptr (s : State) (v : Byte) : (s.setF v).memptr = s.memptr := rfl
@[simp] theorem State.setF_lastFetch (s : State) (v : Byte) : (s.setF v).lastFetch = s.lastFetch := rfl
@[simp] theorem State.setF_iff1 (s : State) (v : Byte) : (s.setF v).iff1 = s.iff1 := rfl
@[simp] theorem State.setF_iff2 (s : State) (v : Byte) : (s.setF v).iff2 = s.iff2 := rfl
@[simp] theorem State.setF_imode (s : State) (v : Byte) : (s.setF v).imode = s.imode := rfl
@[simp] theorem State.setF_run (s : State) (v : Byte) : (s.setF v).run = s.run := rfl
@[simp] theorem State.setF_cycles (s : State) (v : Byte) : (s.setF v).cycles = s.cycles := rfl
@[simp] theorem State.setF_bus (s : State) (v : Byte) : (s.setF v).bus = s.bus := rfl
@[simp] theorem State.setF_pAndH (s : State) (v : Byte) : (s.setF v).pAndH = s.pAndH := rfl

/-! ## endInstr -/

@[simp] theorem State.endInstr_af (s : State) : (s.endInstr).af = s.af := rfl
@[simp] theorem State.endInstr_bc (s : State) : (s.endInstr).bc = s.bc := rfl
@[simp] theorem State.endInstr_de (s : State) : (s.endInstr).de = s.de := rfl
@[simp] theorem State.endInstr_hl (s : State) : (s.endInstr).hl = s.hl := rfl
@[simp] theorem State.endInstr_ix (s : State) : (s.endInstr).ix = s.ix := rfl
@[simp] theorem State.endInstr_iy (s : State) : (s.endInstr).iy = s.iy := rfl
@[simp] theorem State.endInstr_pc (s : State) : (s.endInstr).pc = s.pc := rfl
@[simp] theorem State.endInstr_memptr (s : State) : (s.endInstr).memptr = s.memptr := rfl
@[simp] theorem State.endInstr_lastFetch (s : State) : (s.endInstr).lastFetch = s.lastFetch := rfl
@[simp] theorem State.endInstr_iff1 (s : State) : (s.endInstr).iff1 = s.iff1 := rfl
@[simp] theorem State.endInstr_iff2 (s : State) : (s.endInstr).iff2 = s.iff2 := rfl
@[simp] theorem State.endInstr_imode (s : State) : (s.endInstr).imode = .direct := rfl
@[simp] theorem State.endInstr_run (s : State) : (s.endInstr).run = s.run := rfl
@[simp] theorem State.endInstr_cycles (s : State) : (s.endInstr).cycles = s.cycles := rfl
@[simp] theorem State.endInstr_bus (s : State) : (s.endInstr).bus = s.bus := rfl
@[simp] theorem State.endInstr_pAndH (s : State) : (s.endInstr).pAndH = s.pAndH := rfl

/-! ## setPair -/

@[simp] theorem State.setPair_pc (s : State) (v : Word) (p : Pair) : (s.setPair v p).pc = s.pc := by cases p <;> rfl
@[simp] theorem State.setPair_memptr (s : State) (v : Word) (p : Pair) : (s.setPair v p).memptr = s.memptr := by cases p <;> rfl
@[simp] theorem State.setPair_lastFetch (s : State) (v : Word) (p : Pair) : (s.setPair v p).lastFetch = s.lastFetch := by cases p <;> rfl
@[simp] theorem State.setPair_iff1 (s : State) (v : Word) (p : Pair) : (s.setPair v p).iff1 = s.iff1 := by cases p <;> rfl
@[simp] theorem State.setPair_iff2 (s : State) (v : Word) (p : Pair) : (s.setPair v p).iff2 = s.iff2 := by cases p <;> rfl
@[simp] theorem State.setPair_imode (s : State) (v : Word) (p : Pair) : (s.setPair v p).imode = s.imode := by cases p <;> rfl
@[simp] theorem State.setPair_run (s : State) (v : Word) (p : Pair) : (s.setPair v p).run = s.run := by cases p <;> rfl
@[simp] theorem State.setPair_cycles (s : State) (v : Word) (p : Pair) : (s.setPair v p).cycles = s.cycles := by cases p <;> rfl
@[simp] theorem State.setPair_bus (s : State) (v : Word) (p : Pair) : (s.setPair v p).bus = s.bus := by cases p <;> rfl
@[simp] theorem State.setPair_pAndH (s : State) (v : Word) (p : Pair) : (s.setPair v p).pAndH = s.pAndH := by cases p <;> rfl

@[simp] theorem State.setPair_readPair (s : State) (v : Word) (p q : Pair) :
    (s.setPair v p).readPair q = if p = q then v else s.readPair q := by
  cases p <;> cases q <;> rfl

/-! ## The bus -/

@[simp] theorem Bus.issued_mem (b : Bus) (c : BusCall) : (b.issued c).mem = b.mem := rfl
@[simp] theorem Bus.issued_answers (b : Bus) (c : BusCall) : (b.issued c).answers = b.answers := rfl
@[simp] theorem Bus.issued_calls (b : Bus) (c : BusCall) : (b.issued c).calls = b.calls := rfl
@[simp] theorem Bus.issued_trace (b : Bus) (c : BusCall) : (b.issued c).trace = b.trace ++ [c] := rfl
@[simp] theorem Bus.answered_mem (b : Bus) (c : BusCall) : (b.answered c).mem = b.mem := rfl
@[simp] theorem Bus.answered_answers (b : Bus) (c : BusCall) : (b.answered c).answers = b.answers.tail := rfl
@[simp] theorem Bus.answered_calls (b : Bus) (c : BusCall) : (b.answered c).calls = b.calls + 1 := rfl
@[simp] theorem Bus.answered_trace (b : Bus) (c : BusCall) : (b.answered c).trace = b.trace ++ [c] := rfl

/-! ## Reads by name -/

@[simp] theorem State.readPair_af (s : State) : s.readPair .af = s.af := rfl
@[simp] theorem State.readPair_bc (s : State) : s.readPair .bc = s.bc := rfl
@[simp] theorem State.readPair_de (s : State) : s.readPair .de = s.de := rfl
@[simp] theorem State.readPair_hl (s : State) : s.readPair .hl = s.hl := rfl
@[simp] theorem State.readPair_ix (s : State) : s.readPair .ix = s.ix := rfl
@[simp] theorem State.readPair_iy (s : State) : s.readPair .iy = s.iy := rfl
theorem State.a_eq (s : State) : s.a = hiByte s.af := rfl
theorem State.f_eq (s : State) : s.f = loByte s.af := rfl

/-! ## Construction -/

@[simp] theorem State.construct_af (i : Init) (h : Bool) (b : Bus) : (State.construct i h b).af = i.af := rfl
@[simp] theorem State.construct_bc (i : Init) (h : Bool) (b : Bus) : (State.construct i h b).bc = i.bc := rfl
@[simp] theorem State.construct_de (i : Init) (h : Bool) (b : Bus) : (State.construct i h b).de = i.de := rfl
@[simp] theorem State.construct_hl (i : Init) (h : Bool) (b : Bus) : (State.construct i h b).hl = i.hl := rfl
@[simp] theorem State.construct_ix (i : Init) (h : Bool) (b : Bus) : (State.construct i h b).ix = i.ix := rfl
@[simp] theorem State.construct_iy (i : Init) (h : Bool) (b : Bus) : (State.construct i h b).iy = i.iy := rfl
@[simp] theorem State.construct_pc (i : Init) (h : Bool) (b : Bus) : (State.construct i h b).pc = 0#16 := rfl
@[simp] theorem State.construct_memptr (i : Init) (h : Bool) (b : Bus) : (State.construct i h b).memptr = i.memptr := rfl
@[simp] theorem State.construct_lastFetch (i : Init) (h : Bool) (b : Bus) : (State.construct i h b).lastFetch = i.lastFetch := rfl
@[simp] theorem State.construct_iff1 (i : Init) (h : Bool) (b : Bus) : (State.construct i h b).iff1 = i.iff1 := rfl
@[simp] theorem State.construct_iff2 (i : Init) (h : Bool) (b : Bus) : (State.construct i h b).iff2 = i.iff2 := rfl
@[simp] theorem State.construct_imode (i : Init) (h : Bool) (b : Bus) : (State.construct i h b).imode = .direct := rfl
@[simp] theorem State.construct_run (i : Init) (h : Bool) (b : Bus) : (State.construct i h b).run = .running := rfl
@[simp] theorem State.construct_cycles (i : Init) (h : Bool) (b : Bus) : (State.construct i h b).cycles = 0 := rfl
@[simp] theorem State.construct_bus (i : Init) (h : Bool) (b : Bus) : (State.construct i h b).bus = b := rfl
@[simp] theorem State.construct_pAndH (i : Init) (h : Bool) (b : Bus) : (State.construct i h b).pAndH = h := rfl

end Sys2Proof.Machine
end

