-- ==== Sys2Proof/Laws/Bits.lean ====
section
/-! SUPPORT. What the bit helpers do: halves of a pair, sign extension (00_scope.md R8, R9; 10_state.md R22, R23). -/

namespace Sys2Proof.Machine

/-- A pair bit by bit: the low byte below bit 8, the high byte from bit 8 (R22). -/
theorem mkPair_getLsbD (h l : Byte) (i : Nat) :
    (mkPair h l).getLsbD i = if i < 8 then l.getLsbD i else h.getLsbD (i - 8) :=
  BitVec.getLsbD_append

@[simp] theorem hiByte_mkPair (h l : Byte) : hiByte (mkPair h l) = h := by
  apply BitVec.eq_of_getLsbD_eq
  intro i hi
  simp [hiByte, mkPair_getLsbD, hi]

@[simp] theorem loByte_mkPair (h l : Byte) : loByte (mkPair h l) = l := by
  apply BitVec.eq_of_getLsbD_eq
  intro i hi
  simp [loByte, mkPair_getLsbD, hi]

@[simp] theorem mkPair_hi_lo (w : Word) : mkPair (hiByte w) (loByte w) = w := by
  apply BitVec.eq_of_getLsbD_eq
  intro i hi
  by_cases h : i < 8
  · simp [hiByte, loByte, mkPair_getLsbD, h]
  · have e : 8 + (i - 8) = i := by omega
    have l : i - 8 < 8 := by omega
    simp [hiByte, loByte, mkPair_getLsbD, h, l, e]

@[simp] theorem setA_a (s : State) (v : Byte) : (s.setA v).a = v := by simp [State.a_eq]
@[simp] theorem setF_a (s : State) (v : Byte) : (s.setF v).a = s.a := by simp [State.a_eq]
@[simp] theorem setF_f (s : State) (v : Byte) : (s.setF v).f = v := by simp [State.f_eq]
@[simp] theorem setA_f (s : State) (v : Byte) : (s.setA v).f = s.f := by simp [State.f_eq]

/-- Writing A and then F writes the whole of AF. -/
theorem setA_setF (s : State) (r f : Byte) : (s.setA r).setF f = { s with af := mkPair r f } := by
  show ({ s with af := mkPair (hiByte (mkPair r (loByte s.af))) f } : State) = _
  rw [hiByte_mkPair]

/-- The displacement is signed: `sext_16` is the integer value modulo 2^16 (30_encoding.md R75). -/
theorem sext16_toInt (d : Byte) : sext16 d = BitVec.ofInt 16 d.toInt := by
  apply BitVec.eq_of_toInt_eq
  simp only [sext16, BitVec.toInt_signExtend_of_le (show 8 ≤ 16 by decide), BitVec.toInt_ofInt]
  have := BitVec.le_toInt d
  have := BitVec.toInt_lt (x := d)
  rw [Int.bmod_eq_of_le] <;> omega

end Sys2Proof.Machine
end

