-- ==== Sys2Proof/Laws/Flags.lean ====
section
/-! SUPPORT. The flag function in its second form (41_alu_logical.md R131), and parity as one exclusive or. -/

namespace Sys2Proof.Machine

/-- Even parity is the negated exclusive or of the eight bits (R132). -/
theorem parity_eq_xor (r : Byte) :
    parity r = !(r.getLsbD 0 ^^ r.getLsbD 1 ^^ r.getLsbD 2 ^^ r.getLsbD 3 ^^ r.getLsbD 4 ^^ r.getLsbD 5 ^^
      r.getLsbD 6 ^^ r.getLsbD 7) := by
  revert r
  decide

/-- `LogicFlags(r, h) = (r & 0xA8) | (r = 0 ? 0x40 : 0) | (h << 4) | (Parity(r) << 2)` (R131). -/
theorem logicFlags_closed (r : Byte) (h : Bool) :
    logicFlags r h = (r &&& 0xA8#8) ||| (if r = 0#8 then 0x40#8 else 0#8) ||| (if h then 0x10#8 else 0#8) |||
      (if parity r then 0x04#8 else 0#8) := by
  revert r
  cases h <;> decide

end Sys2Proof.Machine
end

