-- ==== Sys2Proof/Laws/Memory.lean ====
section
/-! SUPPORT. The memory laws: reading after a write, and that every memory operation keeps the canonical form
(20_memory.md R50, R53; log 3). -/

namespace Sys2Proof.Machine

theorem findCell_putCell (cs : List Host.Cell) (a b : Nat) (v : Byte) :
    findCell (putCell cs a v) b = if b = a then some v else findCell cs b := by
  induction cs with
  | nil => simp [putCell, findCell, eq_comm]
  | cons c cs ih =>
    simp only [putCell]
    split
    · simp [findCell, eq_comm]
    · split
      · rename_i _ h
        subst h
        by_cases hb : b = c.1 <;> simp [findCell, hb, eq_comm]
      · rename_i _ h
        simp only [findCell, ih]
        by_cases hc : c.1 = b
        · have : b ≠ a := fun e => h (by omega)
          simp [hc, this]
        · simp [hc]

theorem findCell_dropCell (cs : List Host.Cell) (a b : Nat) :
    findCell (dropCell cs a) b = if b = a then none else findCell cs b := by
  induction cs with
  | nil => simp [dropCell, findCell]
  | cons c cs ih =>
    unfold dropCell at ih ⊢
    by_cases h : c.1 = a
    · simp only [List.filter, h, findCell]
      simp only [ne_eq, not_true_eq_false, decide_false, ih]
      by_cases hb : b = a
      · simp [hb]
      · simp [hb, Ne.symm hb]
    · simp only [List.filter, ne_eq, h, not_false_eq_true, decide_true, findCell, ih]
      by_cases hb : c.1 = b
      · have : b ≠ a := by omega
        simp [hb, this]
      · simp [hb]

/-- Reading the byte just written gives it; every other byte reads as before. -/
theorem byte?_write (m : Memory) (a b : Word) (v : Byte) :
    (m.write a v).byte? b = if b = a then some v else m.byte? b := by
  have e : (b.toNat = a.toNat) = (b = a) := propext BitVec.toNat_inj
  unfold Memory.write
  split
  · rename_i h
    simp only [Memory.byte?, Memory.unlisted, findCell_dropCell, e] at h ⊢
    by_cases hb : b = a <;> simp [hb, h]
  · simp only [Memory.byte?, Memory.unlisted, findCell_putCell, e]
    by_cases hb : b = a <;> simp [hb]

@[simp] theorem write_unlisted (m : Memory) (a : Word) (v : Byte) : (m.write a v).unlisted = m.unlisted := by
  unfold Memory.write
  split <;> rfl

theorem mem_putCell (cs : List Host.Cell) (a : Nat) (v : Byte) (c : Host.Cell) :
    c ∈ putCell cs a v → c = (a, v) ∨ c ∈ cs := by
  induction cs with
  | nil => simp [putCell]
  | cons d cs ih =>
    simp only [putCell]
    split
    · simp
    · split
      · simp only [List.mem_cons]
        tauto
      · simp only [List.mem_cons]
        tauto

theorem putCell_rising (cs : List Host.Cell) (a : Nat) (v : Byte)
    (h : cs.Pairwise (fun c d => c.1 < d.1)) : (putCell cs a v).Pairwise (fun c d => c.1 < d.1) := by
  induction cs with
  | nil => simp [putCell]
  | cons d cs ih =>
    rw [List.pairwise_cons] at h
    simp only [putCell]
    split
    · rename_i hlt
      refine List.pairwise_cons.2 ⟨?_, List.pairwise_cons.2 h⟩
      intro c hc
      rcases List.mem_cons.1 hc with rfl | hc
      · exact hlt
      · exact Nat.lt_trans hlt (h.1 c hc)
    · split
      · rename_i _ heq
        exact List.pairwise_cons.2 ⟨fun c hc => by simpa [heq] using h.1 c hc, h.2⟩
      · rename_i hlt hne
        refine List.pairwise_cons.2 ⟨?_, ih h.2⟩
        intro c hc
        rcases mem_putCell cs a v c hc with rfl | hc
        · show d.1 < a
          omega
        · exact h.1 c hc

/-- A write keeps the canonical form. -/
theorem write_wf (m : Memory) (a : Word) (v : Byte) (h : m.wf) : (m.write a v).wf := by
  obtain ⟨hr, hb, hf⟩ := h
  unfold Memory.write
  split
  · refine ⟨hr.filter _, fun c hc => hb c (List.mem_of_mem_filter hc), fun c hc => hf c (List.mem_of_mem_filter hc)⟩
  · rename_i hv
    refine ⟨putCell_rising _ _ _ hr, fun c hc => ?_, fun c hc => ?_⟩
    · rcases mem_putCell _ _ _ c hc with rfl | hc
      · exact a.isLt
      · exact hb c hc
    · rcases mem_putCell _ _ _ c hc with rfl | hc
      · exact fun e => hv e.symm
      · exact hf c hc

/-- The one state operation that writes memory keeps the canonical form; so does placing bytes. -/
theorem memWrite_wf (s : State) (a : Word) (v : Byte) (h : s.bus.mem.wf) : (s.memWrite a v).bus.mem.wf :=
  write_wf s.bus.mem a v h

theorem placeBytes_wf (bs : List Byte) (s : State) (a : Word) (h : s.bus.mem.wf) :
    (s.placeBytes a bs).bus.mem.wf := by
  induction bs generalizing s a with
  | nil => exact h
  | cons b bs ih => exact ih _ _ (write_wf s.bus.mem a b h)

/-- Reset's memory is canonical. -/
theorem reset_mem_wf : State.reset.bus.mem.wf := by decide

end Sys2Proof.Machine
end

