-- ==== Sys2Proof/Laws/Operands.lean ====
section
/-! SUPPORT. What the shared operations do, once each: the bus primitives, the operand read and the ALU hook
(00_scope.md R10, 41_alu_logical.md R130, R131). -/

namespace Sys2Proof.Machine

theorem fetch_eq (s : State) (a : Word) :
    s.fetch a = (s.bus.fetchAnswer a,
      { s with cycles := s.cycles + 4, bus := (s.bus.answered (.fetch a)).issued (.tick 4) }) := rfl

theorem memRead_eq (s : State) (a : Word) :
    s.memRead a = (s.bus.readAnswer a,
      { s with cycles := s.cycles + 3, bus := (s.bus.answered (.read a)).issued (.tick 3) }) := rfl

theorem memReadLong_eq (s : State) (a : Word) :
    s.memReadLong a = (s.bus.readAnswer a,
      { s with cycles := s.cycles + 4, bus := (s.bus.answered (.read a)).issued (.tick 4) }) := rfl

/-- An operand read either leaves the state alone or is one ordinary read (R130). -/
theorem readOperand_cases (s : State) (o : Operand) :
    (s.readOperand o).2 = s ∨ ∃ a, s.readOperand o = s.memRead a := by
  cases o with
  | reg z m => exact .inl rfl
  | memHl => exact .inr ⟨s.hl, rfl⟩
  | memIdx p d ea => exact .inr ⟨ea, rfl⟩

/-- An operand read changes nothing of the processor but CYCLES, and nothing of the bus but its calls. -/
theorem readOperand_frame (s : State) (o : Operand) :
    ∃ c b, (s.readOperand o).2 = { s with cycles := c, bus := b } ∧ b.mem = s.bus.mem := by
  rcases readOperand_cases s o with h | ⟨a, h⟩
  · exact ⟨s.cycles, s.bus, h, rfl⟩
  · exact ⟨_, _, congrArg Prod.snd (h.trans (memRead_eq s a)), rfl⟩

/-- The ALU hook: the operand read, then AF written whole from the result (R131). -/
theorem hookAlu_eq (s : State) (k : AluOp) (o : Operand) :
    s.hookAlu k o =
      { (s.readOperand o).2 with
        af := mkPair (aluApply k s.a (s.readOperand o).1)
          (logicFlags (aluApply k s.a (s.readOperand o).1) (halfCarry s.pAndH k)) } := by
  show ((s.readOperand o).2.setA _).setF _ = _
  cases o <;> exact setA_setF _ _ _

/-- The ALU hook writes AF, and for a memory operand CYCLES and the record of bus calls; nothing else (R26). -/
theorem hookAlu_frame (s : State) (k : AluOp) (o : Operand) :
    ∃ af c b, s.hookAlu k o = { s with af := af, cycles := c, bus := b } ∧ b.mem = s.bus.mem := by
  obtain ⟨c, b, h, hb⟩ := readOperand_frame s o
  exact ⟨mkPair (aluApply k s.a (s.readOperand o).1)
    (logicFlags (aluApply k s.a (s.readOperand o).1) (halfCarry s.pAndH k)), c, b, by rw [hookAlu_eq, h], hb⟩

/-- The ALU hook on a register operand writes AF and nothing else. -/
theorem hookAlu_reg (s : State) (k : AluOp) (z : Slot) (m : IndexMode) :
    s.hookAlu k (.reg z m) =
      { s with
        af := mkPair (aluApply k s.a (s.readSlot m z))
          (logicFlags (aluApply k s.a (s.readSlot m z)) (halfCarry s.pAndH k)) } :=
  hookAlu_eq s k _

end Sys2Proof.Machine
end

