-- ==== Sys2Proof/Laws/PerInstr.lean ====
section
/-! SUPPORT. Statements made per instruction. EncodingShape: an instruction has a displacement byte exactly when its
opcode byte is of class 2 with y in 4, 5, 6 and z = 6 and its row is not selected under Direct (30_encoding.md R80). -/

namespace Sys2Proof.Laws

/-- The encoder gives the displacement byte exactly where R80 says the step takes one. -/
def EncodingShape.Statement (i : Instr) : Prop :=
  (displacement? i).isSome =
    (fieldX (opcodeByte i) == 2#2 && (aluOp? (fieldY (opcodeByte i))).isSome && fieldZ (opcodeByte i) == 6#3 &&
      i.mode? != some .direct)

theorem EncodingShape.nop : EncodingShape.Statement .nop := by
  unfold EncodingShape.Statement; rfl
theorem EncodingShape.andB : EncodingShape.Statement .andB := by
  unfold EncodingShape.Statement; rfl
theorem EncodingShape.andC : EncodingShape.Statement .andC := by
  unfold EncodingShape.Statement; rfl
theorem EncodingShape.andD : EncodingShape.Statement .andD := by
  unfold EncodingShape.Statement; rfl
theorem EncodingShape.andE : EncodingShape.Statement .andE := by
  unfold EncodingShape.Statement; rfl
theorem EncodingShape.andH : EncodingShape.Statement .andH := by
  unfold EncodingShape.Statement; rfl
theorem EncodingShape.andL : EncodingShape.Statement .andL := by
  unfold EncodingShape.Statement; rfl
theorem EncodingShape.andMemHl : EncodingShape.Statement .andMemHl := by
  unfold EncodingShape.Statement; rfl
theorem EncodingShape.andA : EncodingShape.Statement .andA := by
  unfold EncodingShape.Statement; rfl
theorem EncodingShape.andIxh : EncodingShape.Statement .andIxh := by
  unfold EncodingShape.Statement; rfl
theorem EncodingShape.andIxl : EncodingShape.Statement .andIxl := by
  unfold EncodingShape.Statement; rfl
theorem EncodingShape.andMemIx (d : Byte) : EncodingShape.Statement (.andMemIx d) := by
  simp only [EncodingShape.Statement, displacement?, opcodeByte, Instr.mode?, Option.isSome_some]; decide
theorem EncodingShape.andIyh : EncodingShape.Statement .andIyh := by
  unfold EncodingShape.Statement; rfl
theorem EncodingShape.andIyl : EncodingShape.Statement .andIyl := by
  unfold EncodingShape.Statement; rfl
theorem EncodingShape.andMemIy (d : Byte) : EncodingShape.Statement (.andMemIy d) := by
  simp only [EncodingShape.Statement, displacement?, opcodeByte, Instr.mode?, Option.isSome_some]; decide
theorem EncodingShape.xorB : EncodingShape.Statement .xorB := by
  unfold EncodingShape.Statement; rfl
theorem EncodingShape.xorC : EncodingShape.Statement .xorC := by
  unfold EncodingShape.Statement; rfl
theorem EncodingShape.xorD : EncodingShape.Statement .xorD := by
  unfold EncodingShape.Statement; rfl
theorem EncodingShape.xorE : EncodingShape.Statement .xorE := by
  unfold EncodingShape.Statement; rfl
theorem EncodingShape.xorH : EncodingShape.Statement .xorH := by
  unfold EncodingShape.Statement; rfl
theorem EncodingShape.xorL : EncodingShape.Statement .xorL := by
  unfold EncodingShape.Statement; rfl
theorem EncodingShape.xorMemHl : EncodingShape.Statement .xorMemHl := by
  unfold EncodingShape.Statement; rfl
theorem EncodingShape.xorA : EncodingShape.Statement .xorA := by
  unfold EncodingShape.Statement; rfl
theorem EncodingShape.xorIxh : EncodingShape.Statement .xorIxh := by
  unfold EncodingShape.Statement; rfl
theorem EncodingShape.xorIxl : EncodingShape.Statement .xorIxl := by
  unfold EncodingShape.Statement; rfl
theorem EncodingShape.xorMemIx (d : Byte) : EncodingShape.Statement (.xorMemIx d) := by
  simp only [EncodingShape.Statement, displacement?, opcodeByte, Instr.mode?, Option.isSome_some]; decide
theorem EncodingShape.xorIyh : EncodingShape.Statement .xorIyh := by
  unfold EncodingShape.Statement; rfl
theorem EncodingShape.xorIyl : EncodingShape.Statement .xorIyl := by
  unfold EncodingShape.Statement; rfl
theorem EncodingShape.xorMemIy (d : Byte) : EncodingShape.Statement (.xorMemIy d) := by
  simp only [EncodingShape.Statement, displacement?, opcodeByte, Instr.mode?, Option.isSome_some]; decide
theorem EncodingShape.orB : EncodingShape.Statement .orB := by
  unfold EncodingShape.Statement; rfl
theorem EncodingShape.orC : EncodingShape.Statement .orC := by
  unfold EncodingShape.Statement; rfl
theorem EncodingShape.orD : EncodingShape.Statement .orD := by
  unfold EncodingShape.Statement; rfl
theorem EncodingShape.orE : EncodingShape.Statement .orE := by
  unfold EncodingShape.Statement; rfl
theorem EncodingShape.orH : EncodingShape.Statement .orH := by
  unfold EncodingShape.Statement; rfl
theorem EncodingShape.orL : EncodingShape.Statement .orL := by
  unfold EncodingShape.Statement; rfl
theorem EncodingShape.orMemHl : EncodingShape.Statement .orMemHl := by
  unfold EncodingShape.Statement; rfl
theorem EncodingShape.orA : EncodingShape.Statement .orA := by
  unfold EncodingShape.Statement; rfl
theorem EncodingShape.orIxh : EncodingShape.Statement .orIxh := by
  unfold EncodingShape.Statement; rfl
theorem EncodingShape.orIxl : EncodingShape.Statement .orIxl := by
  unfold EncodingShape.Statement; rfl
theorem EncodingShape.orMemIx (d : Byte) : EncodingShape.Statement (.orMemIx d) := by
  simp only [EncodingShape.Statement, displacement?, opcodeByte, Instr.mode?, Option.isSome_some]; decide
theorem EncodingShape.orIyh : EncodingShape.Statement .orIyh := by
  unfold EncodingShape.Statement; rfl
theorem EncodingShape.orIyl : EncodingShape.Statement .orIyl := by
  unfold EncodingShape.Statement; rfl
theorem EncodingShape.orMemIy (d : Byte) : EncodingShape.Statement (.orMemIy d) := by
  simp only [EncodingShape.Statement, displacement?, opcodeByte, Instr.mode?, Option.isSome_some]; decide
theorem EncodingShape.di : EncodingShape.Statement .di := by
  unfold EncodingShape.Statement; rfl
theorem EncodingShape.prefixDD : EncodingShape.Statement .prefixDD := by
  unfold EncodingShape.Statement; rfl
theorem EncodingShape.prefixFD : EncodingShape.Statement .prefixFD := by
  unfold EncodingShape.Statement; rfl

end Sys2Proof.Laws
end

