-- ==== Sys2Proof/Laws/Step.lean ====
section
/-! SUPPORT. What an instruction and a step can do, said once (40_pipeline.md R100): every later fact about `exec` or
`step` is a case analysis over these. -/

namespace Sys2Proof.Machine

/-- The decode path takes one opcode byte (R101). -/
theorem fetchOpcode_eq (s : State) :
    s.fetchOpcode = (s.bus.fetchAnswer s.pc,
      { s with pc := s.pc + 1#16, lastFetch := s.pc, cycles := s.cycles + 4,
               bus := (s.bus.answered (.fetch s.pc)).issued (.tick 4) }) := rfl

/-- The displacement step (R105). -/
theorem fetchDisplacement_eq (s : State) (p : IndexReg) :
    s.fetchDisplacement p = (s.bus.readAnswer s.pc,
      { s with pc := s.pc + 1#16, memptr := s.indexedAddr p (s.bus.readAnswer s.pc), cycles := s.cycles + 4 + 5,
               bus := ((s.bus.answered (.read s.pc)).issued (.tick 4)).issued (.tick 5) }) := by
  cases p <;> rfl

/-- A byte with no table entry: the DecodeError, after the fetch (R101, R211). -/
theorem takeInstr_error {s : State} {e : DecodeReject}
    (h : decodeOpcode s.imode (s.bus.fetchAnswer s.pc) = .error e) :
    s.takeInstr = .error (.decodeError (s.bus.fetchAnswer s.pc) s.pc, s.fetchOpcode.2.bus) := by
  simp only [State.takeInstr, fetchOpcode_eq, h, raiseDecodeError]

/-- An instruction of one byte. -/
theorem takeInstr_complete {s : State} {i : Instr}
    (h : decodeOpcode s.imode (s.bus.fetchAnswer s.pc) = .ok (.complete i)) :
    s.takeInstr = .ok (i, s.fetchOpcode.2) := by
  simp only [State.takeInstr, fetchOpcode_eq, h]

/-- An instruction with a displacement byte. -/
theorem takeInstr_displaced {s : State} {k : AluOp} {p : IndexReg}
    (h : decodeOpcode s.imode (s.bus.fetchAnswer s.pc) = .ok (.displaced k p)) :
    s.takeInstr = .ok (aluMemIdx k p (s.fetchOpcode.2.fetchDisplacement p).1,
      (s.fetchOpcode.2.fetchDisplacement p).2) := by
  simp only [State.takeInstr, fetchOpcode_eq, h]

/-- The bus after the decode path: one fetch where the byte has no entry, and where the instruction is complete. -/
theorem takenBus_error {s : State} {e : DecodeReject}
    (h : decodeOpcode s.imode (s.bus.fetchAnswer s.pc) = .error e) : s.takenBus = s.fetchOpcode.2.bus := by
  simp only [State.takenBus, takeInstr_error h]

theorem takenBus_ok {s s1 : State} {i : Instr} (h : s.takeInstr = .ok (i, s1)) : s.takenBus = s1.bus := by
  simp only [State.takenBus, h]

theorem busAfterStep_next {s t : State} (h : step s = .next t) : busAfterStep s = t.bus := by
  simp only [busAfterStep, h]

theorem busAfterStep_fault {s : State} {e : Fault} (h : step s = .fault e) : busAfterStep s = s.takenBus := by
  simp only [busAfterStep, h]

/-- A prefix sets IMODE; every other instruction is one hook call and the end of the instruction (R106, R107). -/
theorem exec_cases (i : Instr) (s : State) :
    (∃ m, prefixMode? i = some m ∧ exec i s = .next (s.setImode m)) ∨
      (∃ d, prefixMode? i = none ∧ s.descriptor? i = some d ∧ exec i s = .next (s.runHook d).endInstr) := by
  cases i with
  | prefixDD => exact .inl ⟨_, rfl, rfl⟩
  | prefixFD => exact .inl ⟨_, rfl, rfl⟩
  | _ => exact .inr ⟨_, rfl, rfl, rfl⟩

/-- What a hook does is one of three things. -/
theorem runHook_cases (s : State) (d : Descriptor) :
    (∃ k o, d = .alu k o ∧ s.runHook d = s.hookAlu k o) ∨ (d = .nop ∧ s.runHook d = s) ∨
      (d = .di ∧ s.runHook d = s.setIffs false false) := by
  cases d with
  | alu k o => exact .inl ⟨k, o, rfl, rfl⟩
  | nop => exact .inr (.inl ⟨rfl, rfl⟩)
  | di => exact .inr (.inr ⟨rfl, rfl⟩)

theorem step_halted {s : State} (h : s.run = .halted) : step s = .next s := by
  simp only [step, h]

theorem step_running {s : State} (h : s.run = .running) :
    step s = match s.takeInstr with
      | .error (e, _) => .fault e
      | .ok (i, s1) => exec i s1 := by
  simp only [step, h] <;> rfl

/-- A step that completes: nothing in Halted; in Running, a taken instruction and its meaning. -/
theorem step_next_cases {s t : State} (h : step s = .next t) :
    (s.run = .halted ∧ t = s) ∨
      (s.run = .running ∧ ∃ i s1, s.takeInstr = .ok (i, s1) ∧ exec i s1 = .next t) := by
  cases hr : s.run with
  | halted =>
    rw [step_halted hr] at h
    exact .inl ⟨rfl, by cases h; rfl⟩
  | running =>
    rw [step_running hr] at h
    cases ht : s.takeInstr with
    | error e => simp [ht] at h
    | ok p => exact .inr ⟨rfl, p.1, p.2, rfl, by simpa [ht] using h⟩

/-- A taken instruction comes with the opcode fetch, and where it has a displacement with the displacement step. -/
theorem takeInstr_ok_cases {s s1 : State} {i : Instr} (h : s.takeInstr = .ok (i, s1)) :
    (decodeOpcode s.imode (s.bus.fetchAnswer s.pc) = .ok (.complete i) ∧ s1 = s.fetchOpcode.2) ∨
      (∃ k p, decodeOpcode s.imode (s.bus.fetchAnswer s.pc) = .ok (.displaced k p) ∧
        i = aluMemIdx k p (s.fetchOpcode.2.fetchDisplacement p).1 ∧
        s1 = (s.fetchOpcode.2.fetchDisplacement p).2) := by
  cases hd : decodeOpcode s.imode (s.bus.fetchAnswer s.pc) with
  | error e => simp [takeInstr_error hd] at h
  | ok o =>
    cases o with
    | complete j =>
      rw [takeInstr_complete hd] at h
      cases h
      exact .inl ⟨rfl, rfl⟩
    | displaced k p =>
      rw [takeInstr_displaced hd] at h
      cases h
      exact .inr ⟨k, p, rfl, rfl, rfl⟩

end Sys2Proof.Machine
end

