-- ==== Sys2Proof/Laws/Run.lean ====
section
/-! SUPPORT. Runs of `step` (70_reset_and_hazards.md R247), and what the trace functions do at the end of a trace. -/

namespace Sys2Proof.Machine

@[simp] theorem run_zero (s : State) : run 0 s = .next s := rfl

theorem run_succ_next {k : Nat} {s t : State} (h : step s = .next t) : run (k + 1) s = run k t := by
  have h' : Sys2Proof.core.step s = .next t := h
  simp only [run, Host.Core.run, h']
  rfl

theorem run_succ_fault {k : Nat} {s : State} {e : Fault} (h : step s = .fault e) : run (k + 1) s = .fault e := by
  have h' : Sys2Proof.core.step s = .fault e := h
  simp only [run, Host.Core.run, h']
  rfl

theorem run_succ_refused {k : Nat} {s : State} {r : Refusal} (h : step s = .refused r) :
    run (k + 1) s = .refused r := by
  have h' : Sys2Proof.core.step s = .refused r := h
  simp only [run, Host.Core.run, h']
  rfl

@[simp] theorem runBus_zero (s : State) : runBus 0 s = s.bus := rfl

theorem runBus_succ_next {k : Nat} {s t : State} (h : step s = .next t) : runBus (k + 1) s = runBus k t := by
  simp only [runBus, h]

theorem runBus_succ_fault {k : Nat} {s : State} {e : Fault} (h : step s = .fault e) :
    runBus (k + 1) s = busAfterStep s := by
  simp only [runBus, h]

/-- A run that completes is a step that completes and a run from there. -/
theorem run_succ_cases {k : Nat} {s t : State} (h : run (k + 1) s = .next t) :
    ∃ u, step s = .next u ∧ run k u = .next t := by
  cases hs : step s with
  | next u => exact ⟨u, rfl, by rwa [run_succ_next hs] at h⟩
  | fault e => rw [run_succ_fault hs] at h; cases h
  | refused r => rw [run_succ_refused hs] at h; cases h

/-- A property that every step keeps holds at the end of every run that completes. -/
theorem run_induction {P : State → Prop} (hp : ∀ s t, P s → step s = .next t → P t) :
    ∀ (k : Nat) (s t : State), P s → run k s = .next t → P t := by
  intro k
  induction k with
  | zero => intro s t hs h; cases h; exact hs
  | succ k ih =>
    intro s t hs h
    obtain ⟨u, hu, hk⟩ := run_succ_cases h
    exact ih u t (hp s u hs hu) hk

theorem tickSum_append (cs ds : List BusCall) : tickSum (cs ++ ds) = tickSum cs + tickSum ds := by
  induction cs with
  | nil => simp [tickSum]
  | cons c cs ih => cases c <;> simp [tickSum, ih, Nat.add_assoc]

theorem lastFetchOf_append (cs ds : List BusCall) :
    lastFetchOf (cs ++ ds) = (lastFetchOf ds).or (lastFetchOf cs) := by
  induction cs with
  | nil => simp [lastFetchOf]
  | cons c cs ih => cases c <;> simp [lastFetchOf, ih]

end Sys2Proof.Machine
end

