-- ==== Sys2Proof/Tests/Slice0.lean ====
section
/-! SUPPORT. Tests of the model's own: well-formedness, the decoding of every row from words written out bit by bit
(30_encoding.md R71 to R77), the spec's test vectors (95_test_vectors.md), one step each, and a witness for the
hypotheses of every statement. -/

namespace Sys2Proof.Tests

open Sys2Proof.Machine

/-! ## Well-formedness: each check refuses an ill-formed term -/

theorem test_wf_direct_row_needs_direct :
    Instr.wf .direct .andH = true ∧ Instr.wf .indexedX .andH = false ∧ Instr.wf .indexedY .orMemHl = false := by decide

theorem test_wf_indexedX_row_needs_indexedX :
    Instr.wf .indexedX (.andMemIx 0x80#8) = true ∧ Instr.wf .direct .xorIxh = false ∧
      Instr.wf .indexedY .orIxl = false := by decide

theorem test_wf_indexedY_row_needs_indexedY :
    Instr.wf .indexedY (.orMemIy 0x7F#8) = true ∧ Instr.wf .direct .xorIyl = false ∧
      Instr.wf .indexedX .andIyh = false := by decide

theorem test_wf_any_row : ∀ m ∈ [IndexMode.direct, .indexedX, .indexedY], Instr.wf m .xorB = true := by decide

/-! ## Decoding: class, y, z written out from R71 to R74 -/

/-- AND: 10 100 zzz. -/
theorem test_decode_and_direct :
    decode .direct [0b10100000#8] = .ok (.andB, []) ∧
    decode .direct [0b10100001#8] = .ok (.andC, []) ∧
    decode .direct [0b10100010#8] = .ok (.andD, []) ∧
    decode .direct [0b10100011#8] = .ok (.andE, []) ∧
    decode .direct [0b10100100#8] = .ok (.andH, []) ∧
    decode .direct [0b10100101#8] = .ok (.andL, []) ∧
    decode .direct [0b10100110#8] = .ok (.andMemHl, []) ∧
    decode .direct [0b10100111#8] = .ok (.andA, []) := by
  decide

/-- AND: 10 100 zzz. -/
theorem test_decode_and_indexed :
    decode .indexedX [0b10100100#8] = .ok (.andIxh, []) ∧
    decode .indexedX [0b10100101#8] = .ok (.andIxl, []) ∧
    decode .indexedX [0b10100110#8, 0x80#8] = .ok (.andMemIx 0x80#8, []) ∧
    decode .indexedY [0b10100100#8] = .ok (.andIyh, []) ∧
    decode .indexedY [0b10100101#8] = .ok (.andIyl, []) ∧
    decode .indexedY [0b10100110#8, 0x80#8] = .ok (.andMemIy 0x80#8, []) := by
  decide

/-- XOR: 10 101 zzz. -/
theorem test_decode_xor_direct :
    decode .direct [0b10101000#8] = .ok (.xorB, []) ∧
    decode .direct [0b10101001#8] = .ok (.xorC, []) ∧
    decode .direct [0b10101010#8] = .ok (.xorD, []) ∧
    decode .direct [0b10101011#8] = .ok (.xorE, []) ∧
    decode .direct [0b10101100#8] = .ok (.xorH, []) ∧
    decode .direct [0b10101101#8] = .ok (.xorL, []) ∧
    decode .direct [0b10101110#8] = .ok (.xorMemHl, []) ∧
    decode .direct [0b10101111#8] = .ok (.xorA, []) := by
  decide

/-- XOR: 10 101 zzz. -/
theorem test_decode_xor_indexed :
    decode .indexedX [0b10101100#8] = .ok (.xorIxh, []) ∧
    decode .indexedX [0b10101101#8] = .ok (.xorIxl, []) ∧
    decode .indexedX [0b10101110#8, 0x80#8] = .ok (.xorMemIx 0x80#8, []) ∧
    decode .indexedY [0b10101100#8] = .ok (.xorIyh, []) ∧
    decode .indexedY [0b10101101#8] = .ok (.xorIyl, []) ∧
    decode .indexedY [0b10101110#8, 0x80#8] = .ok (.xorMemIy 0x80#8, []) := by
  decide

/-- OR: 10 110 zzz. -/
theorem test_decode_or_direct :
    decode .direct [0b10110000#8] = .ok (.orB, []) ∧
    decode .direct [0b10110001#8] = .ok (.orC, []) ∧
    decode .direct [0b10110010#8] = .ok (.orD, []) ∧
    decode .direct [0b10110011#8] = .ok (.orE, []) ∧
    decode .direct [0b10110100#8] = .ok (.orH, []) ∧
    decode .direct [0b10110101#8] = .ok (.orL, []) ∧
    decode .direct [0b10110110#8] = .ok (.orMemHl, []) ∧
    decode .direct [0b10110111#8] = .ok (.orA, []) := by
  decide

/-- OR: 10 110 zzz. -/
theorem test_decode_or_indexed :
    decode .indexedX [0b10110100#8] = .ok (.orIxh, []) ∧
    decode .indexedX [0b10110101#8] = .ok (.orIxl, []) ∧
    decode .indexedX [0b10110110#8, 0x80#8] = .ok (.orMemIx 0x80#8, []) ∧
    decode .indexedY [0b10110100#8] = .ok (.orIyh, []) ∧
    decode .indexedY [0b10110101#8] = .ok (.orIyl, []) ∧
    decode .indexedY [0b10110110#8, 0x80#8] = .ok (.orMemIy 0x80#8, []) := by
  decide

/-- NOP, DI and the prefixes (R76). -/
theorem test_decode_control :
    decode .direct [0b00000000#8] = .ok (.nop, []) ∧
    decode .direct [0b11110011#8] = .ok (.di, []) ∧
    decode .direct [0b11011101#8] = .ok (.prefixDD, []) ∧
    decode .direct [0b11111101#8] = .ok (.prefixFD, []) := by
  decide

/-- R83: the bytes as a programmer writes them. -/
theorem test_encode_with_prefix :
    encodeWithPrefix .xorA = [0xAF#8] ∧ encodeWithPrefix .andMemHl = [0xA6#8] ∧
    encodeWithPrefix .orIxl = [0xDD#8, 0xB5#8] ∧ encodeWithPrefix (.andMemIy 0xFE#8) = [0xFD#8, 0xA6#8, 0xFE#8] ∧
    encodeWithPrefix .nop = [0x00#8] ∧ encodeWithPrefix .di = [0xF3#8] := by decide

/-- R78, vectors V37 and V38: bytes with no table entry. -/
theorem test_decode_rejects :
    ∀ b ∈ [0x80#8, 0x88#8, 0x90#8, 0x98#8, 0xB8#8, 0xE6#8, 0xEE#8, 0xF6#8, 0xCB#8, 0xED#8, 0xFB#8, 0x3E#8, 0x76#8],
      decode .direct [b] = .error (.noTableEntry b) := by decide

/-- V39: under IndexedX 0x86 is rejected at once, no displacement being taken. -/
theorem test_decode_rejects_before_displacement :
    decode .indexedX [0x86#8] = .error (.noTableEntry 0x86#8) := by decide

theorem test_decode_truncated :
    decode .direct [] = .error .noOpcode ∧ decode .indexedX [0xA6#8] = .error (.noDisplacement 0xA6#8) := by decide

theorem test_decodeTableWord :
    decodeTableWord 8 0xAF = some .xorA ∧ decodeTableWord 8 0xFD = some .prefixFD ∧ decodeTableWord 8 0xED = none := by
  decide

/-! ## One step on a small state -/

/-- A running engine at `pc` with the bytes listed, every other register 0. -/
def at_ (pc : Word) (cells : List Host.Cell) : State :=
  { State.reset with pc := pc, bus := { Bus.fresh with mem := { fill := none, cells := cells } } }

/-- The next state of an outcome. -/
def next? : Host.Outcome State Fault Refusal → Option State
  | .next s => some s
  | .fault _ => none
  | .refused _ => none

/-- The fault of an outcome. -/
def fault? : Host.Outcome State Fault Refusal → Option Fault
  | .next _ => none
  | .fault e => some e
  | .refused _ => none

/-- AF, PC, CYCLES, MEMPTR and IMODE after one step. -/
def after (s : State) : Option (Word × Word × Nat × Word × IndexMode) :=
  (next? (step s)).map fun t => (t.af, t.pc, t.cycles, t.memptr, t.imode)

/-- V1 -/
theorem test_and_b_V1 :
    after ({ at_ 0x0000#16 [(0x0000, 0xA0#8)] with af := 0xF000#16, bc := 0x3C00#16 }) =
      some (0x3024#16, 0x0001#16, 4, 0x0000#16, .direct) := by decide

/-- V1 with P_AND_H = 1 -/
theorem test_and_b_V1_half_carry :
    after ({ at_ 0x0000#16 [(0x0000, 0xA0#8)] with af := 0xF000#16, bc := 0x3C00#16, pAndH := true }) =
      some (0x3034#16, 0x0001#16, 4, 0x0000#16, .direct) := by decide

/-- V2 -/
theorem test_xor_c_V2 :
    after ({ at_ 0x0000#16 [(0x0000, 0xA9#8)] with af := 0x5A00#16, bc := 0x00FF#16 }) =
      some (0xA5A4#16, 0x0001#16, 4, 0x0000#16, .direct) := by decide

/-- V3 -/
theorem test_or_e_V3 :
    after ({ at_ 0x0000#16 [(0x0000, 0xB3#8)] with af := 0x0000#16 }) =
      some (0x0044#16, 0x0001#16, 4, 0x0000#16, .direct) := by decide

/-- V4 -/
theorem test_or_a_V4 :
    after ({ at_ 0x0000#16 [(0x0000, 0xB7#8)] with af := 0x0100#16 }) =
      some (0x0100#16, 0x0001#16, 4, 0x0000#16, .direct) := by decide

/-- V5 -/
theorem test_xor_a_V5 :
    after ({ at_ 0x0000#16 [(0x0000, 0xAF#8)] with af := 0x3700#16 }) =
      some (0x0044#16, 0x0001#16, 4, 0x0000#16, .direct) := by decide

/-- V6 -/
theorem test_and_a_V6 :
    after ({ at_ 0x0000#16 [(0x0000, 0xA7#8)] with af := 0x9C00#16 }) =
      some (0x9C8C#16, 0x0001#16, 4, 0x0000#16, .direct) := by decide

/-- V7 -/
theorem test_and_d_V7 :
    after ({ at_ 0x0000#16 [(0x0000, 0xA2#8)] with af := 0xFF00#16, de := 0x00FF#16 }) =
      some (0x0044#16, 0x0001#16, 4, 0x0000#16, .direct) := by decide

/-- V8 -/
theorem test_or_h_V8 :
    after ({ at_ 0x0000#16 [(0x0000, 0xB4#8)] with af := 0x0F00#16, hl := 0xF000#16 }) =
      some (0xFFAC#16, 0x0001#16, 4, 0x0000#16, .direct) := by decide

/-- V9 -/
theorem test_xor_l_V9 :
    after ({ at_ 0x0000#16 [(0x0000, 0xAD#8)] with af := 0x8000#16, hl := 0x0080#16 }) =
      some (0x0044#16, 0x0001#16, 4, 0x0000#16, .direct) := by decide

/-- V10: the prefix is ignored -/
theorem test_xor_b_under_prefix_V10 :
    after ({ at_ 0x0000#16 [(0x0000, 0xA8#8)] with af := 0x3C00#16, bc := 0xF000#16, imode := .indexedX }) =
      some (0xCC8C#16, 0x0001#16, 4, 0x0000#16, .direct) := by decide

/-- V11 -/
theorem test_and_hl_V11 :
    after ({ at_ 0x0000#16 [(0x0000, 0xA6#8), (0x4000, 0x0F#8)] with af := 0x8F00#16, hl := 0x4000#16 }) =
      some (0x0F0C#16, 0x0001#16, 7, 0x0000#16, .direct) := by decide

/-- V12 -/
theorem test_xor_hl_V12 :
    after ({ at_ 0x0000#16 [(0x0000, 0xAE#8), (0x8000, 0x29#8)] with af := 0x0100#16, hl := 0x8000#16 }) =
      some (0x282C#16, 0x0001#16, 7, 0x0000#16, .direct) := by decide

/-- V13 -/
theorem test_or_hl_V13 :
    after ({ at_ 0x0100#16 [(0x0000, 0x01#8), (0x0100, 0xB6#8)] with af := 0x8000#16 }) =
      some (0x8184#16, 0x0101#16, 7, 0x0000#16, .direct) := by decide

/-- V14: the top address -/
theorem test_or_hl_top_V14 :
    after ({ at_ 0x0000#16 [(0x0000, 0xB6#8), (0xFFFF, 0x08#8)] with hl := 0xFFFF#16, memptr := 0x1234#16 }) =
      some (0x0808#16, 0x0001#16, 7, 0x1234#16, .direct) := by decide

/-- V15 -/
theorem test_and_ixh_V15 :
    after ({ at_ 0x0001#16 [(0x0001, 0xA4#8)] with af := 0xFF00#16, ix := 0x12FF#16, imode := .indexedX }) =
      some (0x1204#16, 0x0002#16, 4, 0x0000#16, .direct) := by decide

/-- V16 -/
theorem test_and_iyl_V16 :
    after ({ at_ 0x0001#16 [(0x0001, 0xA5#8)] with af := 0x3C00#16, iy := 0x1234#16, imode := .indexedY }) =
      some (0x3420#16, 0x0002#16, 4, 0x0000#16, .direct) := by decide

/-- V17 -/
theorem test_xor_ixl_V17 :
    after ({ at_ 0x0001#16 [(0x0001, 0xAD#8)] with af := 0x1000#16, ix := 0xBEEF#16, imode := .indexedX }) =
      some (0xFFAC#16, 0x0002#16, 4, 0x0000#16, .direct) := by decide

/-- V18 -/
theorem test_xor_iyh_V18 :
    after ({ at_ 0x0001#16 [(0x0001, 0xAC#8)] with iy := 0x7F00#16, imode := .indexedY }) =
      some (0x7F28#16, 0x0002#16, 4, 0x0000#16, .direct) := by decide

/-- V19 -/
theorem test_or_ixh_V19 :
    after ({ at_ 0x0001#16 [(0x0001, 0xB4#8)] with af := 0x0800#16, ix := 0x2000#16, imode := .indexedX }) =
      some (0x282C#16, 0x0002#16, 4, 0x0000#16, .direct) := by decide

/-- V19 -/
theorem test_or_iyl_V19 :
    after ({ at_ 0x0001#16 [(0x0001, 0xB5#8)] with af := 0x0200#16, iy := 0x0001#16, imode := .indexedY }) =
      some (0x0304#16, 0x0002#16, 4, 0x0000#16, .direct) := by decide

/-- V21 -/
theorem test_and_ix_d_V21 :
    after ({ at_ 0x0001#16 [(0x0001, 0xA6#8), (0x0002, 0x05#8), (0x1005, 0x81#8)] with af := 0x8000#16, ix := 0x1000#16, imode := .indexedX }) =
      some (0x8080#16, 0x0003#16, 16, 0x1005#16, .direct) := by decide

/-- V22: the address wraps down -/
theorem test_and_iy_d_V22 :
    after ({ at_ 0x0001#16 [(0x0001, 0xA6#8), (0x0002, 0xFD#8), (0xFFFF, 0x00#8)] with af := 0xAA00#16, iy := 0x0002#16, imode := .indexedY }) =
      some (0x0044#16, 0x0003#16, 16, 0xFFFF#16, .direct) := by decide

/-- V23: the address wraps up -/
theorem test_xor_ix_d_V23 :
    after ({ at_ 0x0001#16 [(0x0001, 0xAE#8), (0x0002, 0x7F#8), (0x006F, 0x0F#8)] with af := 0x0F00#16, ix := 0xFFF0#16, imode := .indexedX }) =
      some (0x0044#16, 0x0003#16, 16, 0x006F#16, .direct) := by decide

/-- V24: d = -128 -/
theorem test_xor_iy_d_V24 :
    after ({ at_ 0x0001#16 [(0x0001, 0xAE#8), (0x0002, 0x80#8), (0x1F80, 0x55#8)] with af := 0xAA00#16, iy := 0x2000#16, imode := .indexedY }) =
      some (0xFFAC#16, 0x0003#16, 16, 0x1F80#16, .direct) := by decide

/-- V25: d = -1 -/
theorem test_or_ix_d_V25 :
    after ({ at_ 0x0101#16 [(0x0101, 0xB6#8), (0x0102, 0xFF#8), (0xFFFF, 0x40#8)] with ix := 0x0000#16, imode := .indexedX }) =
      some (0x4000#16, 0x0103#16, 16, 0xFFFF#16, .direct) := by decide

/-- V26: d = 0 -/
theorem test_or_iy_d_V26 :
    after ({ at_ 0x0001#16 [(0x0001, 0xB6#8), (0x0002, 0x00#8), (0x8000, 0x7F#8)] with af := 0x8000#16, iy := 0x8000#16, imode := .indexedY }) =
      some (0xFFAC#16, 0x0003#16, 16, 0x8000#16, .direct) := by decide

/-- V28: PC wraps -/
theorem test_nop_wraps_V28 :
    after ({ at_ 0xFFFF#16 [(0xFFFF, 0x00#8)] with af := 0x1234#16 }) =
      some (0x1234#16, 0x0000#16, 4, 0x0000#16, .direct) := by decide

/-- V30 -/
theorem test_prefix_dd_V30 :
    after ({ at_ 0x0100#16 [(0x0100, 0xDD#8)] with af := 0x1234#16 }) =
      some (0x1234#16, 0x0101#16, 4, 0x0000#16, .indexedX) := by decide

/-- R183: a later prefix replaces the mode -/
theorem test_prefix_fd_replaces :
    after ({ at_ 0x0001#16 [(0x0001, 0xFD#8)] with imode := .indexedX }) =
      some (0x0000#16, 0x0002#16, 4, 0x0000#16, .indexedY) := by decide

/-- V31, its second step -/
theorem test_nop_under_prefix_V31 :
    after ({ at_ 0x0001#16 [(0x0001, 0x00#8)] with imode := .indexedX }) =
      some (0x0000#16, 0x0002#16, 4, 0x0000#16, .direct) := by decide

/-- V29, V33, W5: DI clears both flip-flops, leaves F, and ends a prefix. -/
theorem test_di_V29_V33 :
    ∀ x ∈ [true, false], ∀ y ∈ [true, false],
      (next? (step { at_ 0 [(0, 0xF3#8)] with af := 0x12FF#16, iff1 := x, iff2 := y, imode := .indexedY })).map
        (fun t => (t.iff1, t.iff2, t.af, t.cycles, t.imode)) = some (false, false, 0x12FF#16, 4, .direct) := by decide

/-- W7, V34: the bus saw `fetch(0x0000)` and `tick(4)` before the fault. -/
theorem test_fault_calls_W7 : (busAfterStep (at_ 0 [(0, 0xED#8)])).trace = [.fetch 0x0000#16, .tick 4] := by decide

/-- V39: no displacement is read before the fault. -/
theorem test_fault_calls_V39 :
    (busAfterStep { at_ 1 [(1, 0x86#8), (2, 0x05#8)] with imode := .indexedX }).trace = [.fetch 0x0001#16, .tick 4] := by
  decide

/-- V34, W7 -/
theorem test_decode_error_V34 : fault? (step (at_ 0 [(0, 0xED#8)])) = some (.decodeError 0xED#8 0x0000#16) := by decide

/-- V35: after a prefix the record names the failing byte and its own address. -/
theorem test_decode_error_V35 :
    fault? (step { at_ 1 [(1, 0xED#8)] with imode := .indexedX }) = some (.decodeError 0xED#8 0x0001#16) := by decide

/-- V36 -/
theorem test_decode_error_V36 :
    fault? (step (at_ 0x1234#16 [(0x1234, 0x76#8)])) = some (.decodeError 0x76#8 0x1234#16) := by decide

/-- V40: Halted. -/
theorem test_halted_V40 : next? (step { at_ 0 [(0, 0x00#8)] with run := .halted }) =
    some { at_ 0 [(0, 0x00#8)] with run := .halted } := by decide

/-- V27, its second step: the bus calls in order; LAST_FETCH is the opcode's address. -/
theorem test_bus_trace_V27 :
    (next? (step { at_ 1 [(1, 0xA6#8), (2, 0x05#8), (0x1005, 0x81#8)] with ix := 0x1000#16, imode := .indexedX })).map
      (fun t => (t.bus.trace, t.lastFetch)) =
    some ([.fetch 1, .tick 4, .read 2, .tick 4, .tick 5, .read 0x1005#16, .tick 3], 0x0001#16) := by decide

/-- A scripted answer comes before memory, and is used up. -/
theorem test_scripted_answer :
    (next? (step { at_ 0 [(0, 0x00#8)] with bus := { (at_ 0 [(0, 0x00#8)]).bus with answers := [0xDD#8, 0x01#8] } })).map
      (fun t => (t.imode, t.bus.answers)) = some (.indexedX, [0x01#8]) := by decide

/-- withFetchWord: the very next step runs the word, from reset and from Halted. -/
theorem test_withFetchWord :
    after (State.reset.withFetchWord 8 0xAF) = some (0x0044#16, 1, 4, 0, .direct) ∧
    after (({ State.reset with run := .halted } : State).withFetchWord 8 0xDD) = some (0, 1, 4, 0, .indexedX) := by decide

/-! ## Register file and flags -/

/-- W1 -/
theorem test_pair_round_trip_W1 :
    (State.reset.writePair .bc 0xBEEF#16).readPair .bc = 0xBEEF#16 ∧
    (State.reset.writePair .bc 0xBEEF#16).readHigh .bc = 0xBE#8 ∧
    (State.reset.writePair .bc 0xBEEF#16).readLow .bc = 0xEF#8 := by decide

/-- W2 -/
theorem test_index_aliasing_W2 :
    let s := { State.reset with hl := 0x1122#16, ix := 0x3344#16 }
    let s1 := s.setLogH .indexedX 0xAA#8
    (s1.ix, s1.hl) = (0xAA44#16, 0x1122#16) ∧ (s1.setLogH .direct 0x55#8).hl = 0x5522#16 ∧
      (s1.setLogH .direct 0x55#8).ix = 0xAA44#16 ∧ (s1.setLogH .direct 0x55#8).iy = s.iy := by decide

/-- V20, the low half of the table. -/
theorem test_logic_flags_V20_low :
    (List.range 128).map (fun n => (logicFlags (BitVec.ofNat 8 (n + 0)) false).toNat) =
      [0x44, 0x00, 0x00, 0x04, 0x00, 0x04, 0x04, 0x00, 0x08, 0x0C, 0x0C, 0x08, 0x0C, 0x08, 0x08, 0x0C] ++
      [0x00, 0x04, 0x04, 0x00, 0x04, 0x00, 0x00, 0x04, 0x0C, 0x08, 0x08, 0x0C, 0x08, 0x0C, 0x0C, 0x08] ++
      [0x20, 0x24, 0x24, 0x20, 0x24, 0x20, 0x20, 0x24, 0x2C, 0x28, 0x28, 0x2C, 0x28, 0x2C, 0x2C, 0x28] ++
      [0x24, 0x20, 0x20, 0x24, 0x20, 0x24, 0x24, 0x20, 0x28, 0x2C, 0x2C, 0x28, 0x2C, 0x28, 0x28, 0x2C] ++
      [0x00, 0x04, 0x04, 0x00, 0x04, 0x00, 0x00, 0x04, 0x0C, 0x08, 0x08, 0x0C, 0x08, 0x0C, 0x0C, 0x08] ++
      [0x04, 0x00, 0x00, 0x04, 0x00, 0x04, 0x04, 0x00, 0x08, 0x0C, 0x0C, 0x08, 0x0C, 0x08, 0x08, 0x0C] ++
      [0x24, 0x20, 0x20, 0x24, 0x20, 0x24, 0x24, 0x20, 0x28, 0x2C, 0x2C, 0x28, 0x2C, 0x28, 0x28, 0x2C] ++
      [0x20, 0x24, 0x24, 0x20, 0x24, 0x20, 0x20, 0x24, 0x2C, 0x28, 0x28, 0x2C, 0x28, 0x2C, 0x2C, 0x28] := by decide

/-- V20, the high half of the table. -/
theorem test_logic_flags_V20_high :
    (List.range 128).map (fun n => (logicFlags (BitVec.ofNat 8 (n + 128)) false).toNat) =
      [0x80, 0x84, 0x84, 0x80, 0x84, 0x80, 0x80, 0x84, 0x8C, 0x88, 0x88, 0x8C, 0x88, 0x8C, 0x8C, 0x88] ++
      [0x84, 0x80, 0x80, 0x84, 0x80, 0x84, 0x84, 0x80, 0x88, 0x8C, 0x8C, 0x88, 0x8C, 0x88, 0x88, 0x8C] ++
      [0xA4, 0xA0, 0xA0, 0xA4, 0xA0, 0xA4, 0xA4, 0xA0, 0xA8, 0xAC, 0xAC, 0xA8, 0xAC, 0xA8, 0xA8, 0xAC] ++
      [0xA0, 0xA4, 0xA4, 0xA0, 0xA4, 0xA0, 0xA0, 0xA4, 0xAC, 0xA8, 0xA8, 0xAC, 0xA8, 0xAC, 0xAC, 0xA8] ++
      [0x84, 0x80, 0x80, 0x84, 0x80, 0x84, 0x84, 0x80, 0x88, 0x8C, 0x8C, 0x88, 0x8C, 0x88, 0x88, 0x8C] ++
      [0x80, 0x84, 0x84, 0x80, 0x84, 0x80, 0x80, 0x84, 0x8C, 0x88, 0x88, 0x8C, 0x88, 0x8C, 0x8C, 0x88] ++
      [0xA0, 0xA4, 0xA4, 0xA0, 0xA4, 0xA0, 0xA0, 0xA4, 0xAC, 0xA8, 0xA8, 0xAC, 0xA8, 0xAC, 0xAC, 0xA8] ++
      [0xA4, 0xA0, 0xA0, 0xA4, 0xA0, 0xA4, 0xA4, 0xA0, 0xA8, 0xAC, 0xAC, 0xA8, 0xAC, 0xA8, 0xA8, 0xAC] := by decide

/-- R131: with P_AND_H = 1 bit 4 is set besides. -/
theorem test_logic_flags_half_carry : logicFlags 0x30#8 true = 0x34#8 ∧ logicFlags 0x00#8 true = 0x54#8 := by decide

/-! ## Disassembly -/

/-- One step of a fresh disassembler: the engine's PC and what it has printed. -/
def disasmAfter (s : State) : Option (Word × List String) :=
  match disasmStep { engine := s, output := [] } with
  | .next t => some (t.engine.pc, t.output)
  | .fault _ => none
  | .refused _ => none

/-- V41, V42, V43, V47, V48 -/
theorem test_disasm_V41_V48 :
    disasmAfter (at_ 0 [(0, 0xAF#8)]) = some (1, ["xor a"]) ∧ disasmAfter (at_ 0 [(0, 0xA6#8)]) = some (1, ["and (hl)"]) ∧
    disasmAfter { at_ 1 [(1, 0xB5#8)] with imode := .indexedX } = some (2, ["or ixl"]) ∧
    disasmAfter { at_ 1 [(1, 0x00#8)] with imode := .indexedX } = some (2, ["nop"]) ∧
    disasmAfter (at_ 0 [(0, 0xF3#8)]) = some (1, ["di"]) ∧ disasmAfter (at_ 0 [(0, 0xDD#8)]) = some (1, []) := by decide

/-- V44, V45, V46 -/
theorem test_disasm_V44_V46 :
    disasmAfter { at_ 1 [(1, 0xA6#8), (2, 0xFE#8)] with imode := .indexedY } = some (3, ["and (iy-2)"]) ∧
    disasmAfter { at_ 1 [(1, 0xAE#8), (2, 0x00#8)] with imode := .indexedX } = some (3, ["xor (ix+0)"]) ∧
    disasmAfter { at_ 1 [(1, 0xB6#8), (2, 0x80#8)] with imode := .indexedY } = some (3, ["or (iy-128)"]) := by decide

/-! ## Witnesses: a state and operands that meet all hypotheses of each statement together -/

/-- Running at `xor b`. -/
def wReg : State := { at_ 0 [(0, 0xA8#8)] with bc := 0x3C00#16 }
/-- Running at `and (hl)` with HL at the top of memory. -/
def wHl : State := { at_ 0 [(0, 0xA6#8), (0xFFFF, 0xFF#8)] with hl := 0xFFFF#16 }
/-- Running at `or (ix-128)` under IndexedX. -/
def wIx : State := { at_ 0xFFFF#16 [(0, 0x80#8), (0x1F80, 0x55#8), (0xFFFF, 0xB6#8)] with
  ix := 0x2000#16, imode := .indexedX }
/-- Running at `xor (iy+127)` under IndexedY. -/
def wIy : State := { at_ 1 [(1, 0xAE#8), (2, 0x7F#8), (0x006F, 0x0F#8)] with iy := 0xFFF0#16, imode := .indexedY }
/-- Running at NOP, at DI, at a prefix. -/
def wNop : State := at_ 0xFFFF#16 [(0xFFFF, 0x00#8)]
def wDi : State := { at_ 0 [(0, 0xF3#8)] with iff1 := true }
def wPrefix : State := at_ 0 [(0, 0xFD#8)]
/-- Running at a byte with no entry. -/
def wBad : State := at_ 0x1234#16 [(0x1234, 0x76#8)]
def wHalted : State := { at_ 0 [(0, 0x00#8)] with run := .halted }
/-- A bus with scripted answers. -/
def wScript (l : List Byte) : State := { State.reset with bus := { Bus.fresh with answers := l } }

/-- A listed byte completes: what every witness of `step s = .next t` rests on. -/
theorem witness_of_next? {o : Host.Outcome State Fault Refusal} (h : (next? o).isSome = true) : ∃ t, o = .next t := by
  cases o with
  | next t => exact ⟨t, rfl⟩
  | fault e => cases h
  | refused r => cases h

theorem witness_DecodeInvertsEncode :
    Instr.wf .indexedX (.andMemIx 0x80#8) = true ∧ Instr.wf .direct .andH = true ∧ Instr.wf .indexedY .nop = true := by
  decide

theorem witness_DecodedBytesAreTheEncoding :
    decode .indexedY [0xB6#8, 0xFF#8, 0x00#8] = .ok (.orMemIy 0xFF#8, [0x00#8]) := by decide

theorem witness_UnlistedBytesAreRejected : Spec.listed 0xA0#8 = true ∧ Spec.listed 0xB7#8 = true ∧
    Spec.listed 0x9F#8 = false ∧ Spec.listed 0xB8#8 = false := by decide

theorem witness_ModeMattersOnlyInHLAndMemorySlots :
    decodeOpcode .direct 0xA6#8 ≠ decodeOpcode .indexedX 0xA6#8 ∧
    decodeOpcode .indexedX 0xB4#8 ≠ decodeOpcode .indexedY 0xB4#8 ∧
    decodeOpcode .direct 0xAD#8 ≠ decodeOpcode .indexedY 0xAD#8 := by decide

theorem witness_FirstByteAndModeGiveTheLength :
    decode .direct [0xA6#8, 0x80#8] = .ok (.andMemHl, [0x80#8]) ∧
    decode .indexedX [0xA6#8, 0x80#8] = .ok (.andMemIx 0x80#8, []) ∧
    decode .indexedX [0xDD#8] = .ok (.prefixDD, []) := by decide

theorem witness_PairAndHalfAccessors : Pair.af ≠ Pair.iy := by decide

theorem witness_LogicalHLFollowsIndexMode :
    Slot.b ≠ Slot.h ∧ Slot.b ≠ Slot.l ∧ ∃ t, exec .andIxh wReg = .next t := ⟨by decide, by decide, _, rfl⟩

theorem witness_ConstructionValues :
    ∃ t, t = State.construct Init.zero true Bus.fresh ∨ t = wHalted.externalReset Init.zero := ⟨_, .inl rfl⟩

theorem witness_AlgebraicLawsOfTheLogicalGroup :
    (wHl.readOperand .memHl).1 = 0xFF#8 ∧ (wReg.readOperand (.reg .c .direct)).1 = 0x00#8 := by decide

theorem witness_AluWritesAllOfFlags :
    wIx.descriptor? (.orMemIx 0x80#8) = some (.alu .or (.memIdx .ix 0x80#8 0x1F80#16)) ∧
    (Instr.prefixFD = .nop ∨ Instr.prefixFD = .di ∨ Instr.prefixFD = .prefixDD ∨ Instr.prefixFD = .prefixFD) := by decide

/-- A step that completes, for each shape of step; the premise of the statements over `step s = .next t`. -/
theorem witness_steps_complete : ∀ s ∈ [wReg, wHl, wIx, wIy, wNop, wDi, wPrefix], s.run = .running ∧
    (next? (step s)).isSome = true := by decide

/-- ... and a step that faults. -/
theorem witness_step_faults : step wBad = .fault (.decodeError 0x76#8 0x1234#16) := by rfl

theorem witness_NoStepReadsFlags :
    (∃ t, step wIx = .next t) ∧ step wBad = .fault (.decodeError 0x76#8 0x1234#16) :=
  ⟨witness_of_next? (by decide), by rfl⟩

theorem witness_HalfCarryParameterTouchesOnlyH :
    (∃ t, step wHl = .next t) ∧
    (∃ t, step wReg = .next t) ∧ ¬ (wReg.run = .running ∧ Spec.aluByte (wReg.bus.fetchAnswer wReg.pc) = true ∧
      (wReg.bus.fetchAnswer wReg.pc).toNat / 8 % 8 = 4) :=
  ⟨witness_of_next? (by decide), witness_of_next? (by decide), by decide⟩

theorem witness_InstructionFrame :
    (∃ t, exec .xorB wReg = .next t) ∧ Instr.xorB ≠ .di ∧ Spec.memoryForm .xorB = false ∧
    (∃ t, exec .prefixDD wReg = .next t) ∧
    (Instr.prefixDD = .nop ∨ Instr.prefixDD = .di ∨ Instr.prefixDD = .prefixDD ∨ Instr.prefixDD = .prefixFD) :=
  ⟨⟨_, rfl⟩, by decide, rfl, ⟨_, rfl⟩, by decide⟩

theorem witness_StepWritesNoGeneralRegisterButAF :
    (∃ t, step wDi = .next t) ∧ Spec.aluByte (wDi.bus.fetchAnswer wDi.pc) = false :=
  ⟨witness_of_next? (by decide), by decide⟩

theorem witness_FlipFlopsWrittenOnlyByDi :
    Instr.nop ≠ .di ∧ (∃ t, exec .nop wDi = .next t) ∧ (∃ t, step wDi = .next t) ∧ (∃ t, step wReg = .next t) ∧
    step wBad = .fault (.decodeError 0x76#8 0x1234#16) :=
  ⟨by decide, ⟨_, rfl⟩, witness_of_next? (by decide), witness_of_next? (by decide), by rfl⟩

theorem witness_NoStepReadsMemptr :
    (∃ t, step wIy = .next t) ∧ (∃ t, step wNop = .next t) ∧ step wBad = .fault (.decodeError 0x76#8 0x1234#16) :=
  ⟨witness_of_next? (by decide), witness_of_next? (by decide), by rfl⟩

theorem witness_StepRunsTheDecodedInstruction :
    (wReg.run = .running ∧ decode wReg.imode [wReg.bus.fetchAnswer wReg.pc] = .ok (.xorB, [])) ∧
    (wIx.run = .running ∧ wIx.imode = .indexedX ∧
      decode wIx.imode [wIx.bus.fetchAnswer wIx.pc, (Spec.afterFetch wIx).bus.readAnswer (wIx.pc + 1#16)] =
        .ok (.orMemIx 0x80#8, [])) ∧
    (wIy.run = .running ∧ wIy.imode = .indexedY ∧
      decode wIy.imode [wIy.bus.fetchAnswer wIy.pc, (Spec.afterFetch wIy).bus.readAnswer (wIy.pc + 1#16)] =
        .ok (.xorMemIy 0x7F#8, [])) := by decide

theorem witness_DecodeErrorExactlyOnUnlistedBytes :
    (wIx.run = .running ∧ Spec.listed (wIx.bus.fetchAnswer wIx.pc) = true) ∧
    (wBad.run = .running ∧ Spec.listed (wBad.bus.fetchAnswer wBad.pc) = false) := by decide

/-- A prefix, then a byte with no entry. -/
def wPrefixBad : State := at_ 0 [(0, 0xDD#8), (1, 0x76#8)]

theorem witness_FaultingStepHasFetchedAndCharged :
    step wBad = .fault (.decodeError 0x76#8 0x1234#16) ∧
    disasmStep { engine := wBad, output := [] } = .fault (.decodeError 0x76#8 0x1234#16) ∧ (∃ t, step wIx = .next t) :=
  ⟨by rfl, by rfl, witness_of_next? (by decide)⟩

theorem witness_FaultEndSawTheFetchOfItsRecord :
    FaultEnd 1 wBad (.decodeError 0x76#8 0x1234#16) ∧ FaultEnd 2 wPrefixBad (.decodeError 0x76#8 0x0001#16) ∧
    ∃ t, NormalEnd 1 wPrefixBad t :=
  ⟨by rfl, by rfl, witness_of_next? (by decide)⟩

/-- PC at 0xFFFF, with and without a displacement. -/
theorem witness_StepMovesPcAndLastFetch :
    wNop.run = .running ∧ (∃ t, step wNop = .next t) ∧ wIx.run = .running ∧ (∃ t, step wIx = .next t) :=
  ⟨rfl, witness_of_next? (by decide), rfl, witness_of_next? (by decide)⟩

theorem witness_IndexModeAfterAStep :
    wPrefix.run = .running ∧ (∃ t, step wPrefix = .next t) ∧ wIy.run = .running ∧ (∃ t, step wIy = .next t) :=
  ⟨rfl, witness_of_next? (by decide), rfl, witness_of_next? (by decide)⟩

theorem witness_MemptrIsTheIndexedAddress :
    wIx.run = .running ∧ (∃ t, step wIx = .next t) ∧ wHl.run = .running ∧ (∃ t, step wHl = .next t) :=
  ⟨rfl, witness_of_next? (by decide), rfl, witness_of_next? (by decide)⟩

theorem witness_HaltedIsFinalAndNeverEntered :
    wHalted.run = .halted ∧ HaltedEnd 0 wHalted wHalted ∧ (∃ t, run 1 wReg = .next t) :=
  ⟨rfl, ⟨rfl, rfl⟩, witness_of_next? (by decide)⟩

theorem witness_CyclesAreTheBusCosts : (∃ t, step wIx = .next t) ∧ (∃ t, step wHalted = .next t) :=
  ⟨witness_of_next? (by decide), ⟨_, rfl⟩⟩

/-- 16, 7 and 4 cycles. -/
theorem witness_CyclesPerInstruction :
    (wIx.run = .running ∧ ∃ t, step wIx = .next t) ∧ (wHl.run = .running ∧ ∃ t, step wHl = .next t) ∧
    (wReg.run = .running ∧ ∃ t, step wReg = .next t) :=
  ⟨⟨rfl, witness_of_next? (by decide)⟩, ⟨rfl, witness_of_next? (by decide)⟩, ⟨rfl, witness_of_next? (by decide)⟩⟩

theorem witness_BusCallsOfAStepInOrder :
    (wIy.run = .running ∧ ∃ t, step wIy = .next t) ∧ (wHl.run = .running ∧ ∃ t, step wHl = .next t) ∧
    (wNop.run = .running ∧ ∃ t, step wNop = .next t) :=
  ⟨⟨rfl, witness_of_next? (by decide)⟩, ⟨rfl, witness_of_next? (by decide)⟩, ⟨rfl, witness_of_next? (by decide)⟩⟩

/-- FlatBus with fill 0 and one byte listed. -/
def wFlat : State :=
  { State.reset with bus := { Bus.fresh with mem := { fill := some 0x00#8, cells := [(0xFFFF, 0x08#8)] } } }

theorem witness_FlatBusAnswersWhatWasWritten :
    wFlat.bus.answers = [] ∧ wFlat.bus.mem.fill.isSome = true ∧ wFlat.bus.mem.wf := by decide

theorem witness_CanonicalMemoriesThatReadAlikeAreEqual :
    ∃ m m' : Memory, m.wf ∧ m'.wf ∧ m.unlisted = m'.unlisted ∧ (∀ a, m.byte? a = m'.byte? a) ∧ m.cells ≠ [] :=
  ⟨wFlat.bus.mem, (wFlat.memWrite 0x0000#16 0x00#8).bus.mem, by decide, by decide, rfl, fun _ => rfl, by decide⟩

theorem witness_RunDeterminedByBusAnswers :
    (wScript [0xDD#8, 0xAE#8, 0x05#8, 0x81#8, 0x00#8, 0x00#8]).toProcessor = (wScript []).toProcessor ∧
    (wScript []).pAndH = false ∧ 3 * 2 ≤ [0xDD#8, 0xAE#8, 0x05#8, 0x81#8, 0x00#8, 0x00#8].length ∧
    (wScript ([0xDD#8, 0xAE#8, 0x05#8, 0x81#8, 0x00#8, 0x00#8] ++ [0x01#8])).bus.answers =
      [0xDD#8, 0xAE#8, 0x05#8, 0x81#8, 0x00#8, 0x00#8] ++ [0x01#8] := by decide

/-- One machine answers from a script, the other from memory; both receive DD, then AE 05 and the operand. -/
def wFromMemory : State := at_ 0 [(0, 0xDD#8), (1, 0xAE#8), (2, 0x05#8), (5, 0x81#8)]

theorem witness_RunDeterminedByAnswersReceived :
    (wScript [0xDD#8, 0xAE#8, 0x05#8, 0x81#8]).toProcessor = wFromMemory.toProcessor ∧
    (wScript [0xDD#8, 0xAE#8, 0x05#8, 0x81#8]).pAndH = wFromMemory.pAndH ∧
    Spec.answersOfRun 2 (wScript [0xDD#8, 0xAE#8, 0x05#8, 0x81#8]) = [0xDD#8, 0xAE#8, 0x05#8, 0x81#8] ∧
    Spec.answersOfRun 2 wFromMemory = [0xDD#8, 0xAE#8, 0x05#8, 0x81#8] :=
  ⟨by decide, by decide, by decide, by decide⟩

theorem witness_InvariantHoldsAtConstruction : wFlat.bus.mem.wf ∧ wFlat.bus.trace = [] ∧ wFlat.Inv :=
  ⟨by decide, rfl, ⟨by decide, rfl, fun _ h => (by cases h), fun _ h => (by cases h)⟩⟩

theorem witness_StepKeepsTheInvariant : wIx.Inv ∧ ∃ t, step wIx = .next t :=
  ⟨⟨by decide, rfl, fun _ h => (by cases h), fun _ h => (by cases h)⟩, witness_of_next? (by decide)⟩

theorem witness_LastPrefixOfAChainWins :
    (∀ p ∈ [0xDD#8] ++ [0xFD#8], p = 0xDD#8 ∨ p = 0xFD#8) ∧ (wScript [0xDD#8, 0xFD#8, 0x00#8]).run = .running ∧
    (wScript [0xDD#8, 0xFD#8, 0x00#8]).bus.answers = [0xDD#8] ++ [0xFD#8] ++ [0x00#8] := by decide

theorem witness_IndexedInstructionOverTwoSteps :
    (wScript [0xDD#8, 0xA6#8, 0x80#8, 0x81#8]).run = .running ∧
    (wScript [0xDD#8, 0xA6#8, 0x80#8, 0x81#8]).bus.answers = 0xDD#8 :: 0xA6#8 :: 0x80#8 :: 0x81#8 :: [] ∧
    (wScript [0xFD#8, 0xB6#8, 0x7F#8, 0x00#8]).bus.answers = 0xFD#8 :: 0xB6#8 :: 0x7F#8 :: 0x00#8 :: [] := by decide

theorem witness_XorThenNopFromConstruction :
    (wScript [0xAF#8, 0x00#8]).bus.answers = 0xAF#8 :: 0x00#8 :: [] := by decide

theorem witness_DisassemblerSharesTheDecodePath :
    wIx.run = .running ∧ (∃ t, step wIx = .next t) ∧ wBad.run = .running ∧
    step wBad = .fault (.decodeError 0x76#8 0x1234#16) :=
  ⟨rfl, witness_of_next? (by decide), rfl, by rfl⟩

end Sys2Proof.Tests
end

section
/-! PROOFS. The family 10_state.md: the logical H and L (R25), F (R30, R31) and the interrupt flip-flops (R32). First
the facts these statements share: the byte helpers in the second transcription's terms, what `exec` does by its descriptor,
and noninterference of a step, proved once for every part of the processor that nothing reads. -/

namespace Sys2Proof.Proofs

open Sys2Proof.Machine

/-! ## Halves of a pair, as the statements write them (R8, R22) -/

theorem hiByte_eq_specHi (w : Word) : hiByte w = Spec.hi w := by
  apply BitVec.eq_of_getLsbD_eq
  intro i hi
  simp [hiByte, Spec.hi, hi]

theorem loByte_eq_specLo (w : Word) : loByte w = Spec.lo w :=
  BitVec.setWidth_eq_extractLsb' (by decide) |>.symm

theorem mkPair_eq_specPair (h l : Byte) : mkPair h l = Spec.pair h l := by
  have hl : l.toNat < 2 ^ 8 := l.isLt
  have hh : h.toNat < 2 ^ 8 := h.isLt
  apply BitVec.eq_of_toNat_eq
  rw [mkPair, BitVec.toNat_append, ← Nat.shiftLeft_add_eq_or_of_lt hl, Nat.shiftLeft_eq, Spec.pair,
    BitVec.toNat_ofNat, Nat.mod_eq_of_lt (by omega)]

/-! ## An instruction by its descriptor (R104, R106) -/

theorem exec_of_prefixMode {i : Instr} {m : IndexMode} (s : State) (h : prefixMode? i = some m) :
    exec i s = .next (s.setImode m) := by
  rcases exec_cases i s with ⟨m', hm, he⟩ | ⟨d, hm, -, -⟩
  · rw [he, Option.some.inj (hm.symm.trans h)]
  · rw [hm] at h; cases h

theorem descriptor?_of_prefixMode {i : Instr} {m : IndexMode} (s : State) (h : prefixMode? i = some m) :
    s.descriptor? i = none := by
  cases i with
  | prefixDD => rfl
  | prefixFD => rfl
  | _ => cases h

theorem exec_of_descriptor {i : Instr} {s : State} {d : Descriptor} (h : s.descriptor? i = some d) :
    exec i s = .next (s.runHook d).endInstr := by
  rcases exec_cases i s with ⟨m, hm, -⟩ | ⟨d', -, hd, he⟩
  · rw [descriptor?_of_prefixMode s hm] at h; cases h
  · rw [he, Option.some.inj (hd.symm.trans h)]

/-- Only DI's hook call is `di` (R181). -/
theorem eq_di_of_descriptor {i : Instr} {s : State} (h : s.descriptor? i = some .di) : i = .di := by
  cases i with
  | di => rfl
  | _ => cases h

/-- The state enters a descriptor only through the index registers, as the base of an effective address (R105). -/
theorem descriptor?_congr {s s' : State} (hx : s'.ix = s.ix) (hy : s'.iy = s.iy) (i : Instr) :
    s'.descriptor? i = s.descriptor? i := by
  have hidx : ∀ p d, s'.idxOperand p d = s.idxOperand p d := by
    intro p d
    cases p <;> simp [State.idxOperand, State.indexedAddr, State.indexBase, hx, hy]
  simp only [State.descriptor?, hidx]

/-! ## What instructions leave unchanged (R26) -/

/-- An instruction writes at most AF, CYCLES, the bus, IMODE and the flip-flops, and these only if it is DI. -/
theorem exec_frame {i : Instr} {s t : State} (h : exec i s = .next t) :
    ∃ af c b m x y,
      t = { s with af := af, cycles := c, bus := b, imode := m, iff1 := x, iff2 := y } ∧
      (i ≠ .di → x = s.iff1 ∧ y = s.iff2) := by
  rcases exec_cases i s with ⟨m, -, he⟩ | ⟨d, -, hd, he⟩ <;> rw [he] at h <;> cases h
  · exact ⟨s.af, s.cycles, s.bus, m, s.iff1, s.iff2, rfl, fun _ => ⟨rfl, rfl⟩⟩
  · rcases runHook_cases s d with ⟨k, o, -, hr⟩ | ⟨-, hr⟩ | ⟨rfl, hr⟩ <;> rw [hr]
    · obtain ⟨af, c, b, hk, -⟩ := hookAlu_frame s k o
      rw [hk]
      exact ⟨af, c, b, .direct, s.iff1, s.iff2, rfl, fun _ => ⟨rfl, rfl⟩⟩
    · exact ⟨s.af, s.cycles, s.bus, .direct, s.iff1, s.iff2, rfl, fun _ => ⟨rfl, rfl⟩⟩
    · exact ⟨s.af, s.cycles, s.bus, .direct, false, false, rfl, fun hi => absurd (eq_di_of_descriptor hd) hi⟩

/-- Every instruction but DI keeps the flip-flops (R32). -/
theorem exec_keeps_iffs {i : Instr} {s t : State} (hi : i ≠ .di) (h : exec i s = .next t) :
    t.iff1 = s.iff1 ∧ t.iff2 = s.iff2 := by
  obtain ⟨_, _, _, _, _, _, rfl, hiff⟩ := exec_frame h
  exact hiff hi

/-! ## Noninterference: a part of the processor that no step reads -/

/-- `step` faults only in the decode path: no instruction's meaning does (R210, R215). -/
theorem step_fault_cases {s : State} {e : Fault} (h : step s = .fault e) :
    s.run = .running ∧ ∃ b, s.takeInstr = .error (e, b) := by
  cases hr : s.run with
  | halted => rw [step_halted hr] at h; cases h
  | running =>
    rw [step_running hr] at h
    cases ht : s.takeInstr with
    | error p =>
      simp only [ht] at h
      cases h
      exact ⟨rfl, p.2, rfl⟩
    | ok p =>
      simp only [ht] at h
      rcases exec_cases p.1 p.2 with ⟨m, -, he⟩ | ⟨d, -, -, he⟩ <;> rw [he] at h <;> cases h

/-- `s'` is `s` up to the overwrite `u`. -/
def SameUpTo (u : State → State) (s s' : State) : Prop := s' = s ∨ s' = u s

/-- The overwrite `u` of a part of the processor that neither the decode path nor a hook reads: each of them does the
same after `u`, and either leaves that part as `u` put it or writes it itself. -/
structure Unread (u : State → State) : Prop where
  run : ∀ s, (u s).run = s.run
  pc : ∀ s, (u s).pc = s.pc
  imode : ∀ s, (u s).imode = s.imode
  bus : ∀ s, (u s).bus = s.bus
  ix : ∀ s, (u s).ix = s.ix
  iy : ∀ s, (u s).iy = s.iy
  setImode : ∀ s m, (u s).setImode m = u (s.setImode m)
  fetchOpcode : ∀ s, (u s).fetchOpcode.2 = u s.fetchOpcode.2
  fetchDisplacement : ∀ s p, SameUpTo u (s.fetchDisplacement p).2 ((u s).fetchDisplacement p).2
  runHook : ∀ s d, SameUpTo u (s.runHook d) ((u s).runHook d)

namespace Unread

variable {u : State → State} (hu : Unread u)
include hu

theorem decodeOpcode_eq (s : State) :
    decodeOpcode (u s).imode ((u s).bus.fetchAnswer (u s).pc) = decodeOpcode s.imode (s.bus.fetchAnswer s.pc) := by
  rw [hu.imode, hu.bus, hu.pc]

theorem displacement_eq (s : State) (p : IndexReg) :
    ((u s).fetchOpcode.2.fetchDisplacement p).1 = (s.fetchOpcode.2.fetchDisplacement p).1 := by
  rw [hu.fetchOpcode, fetchDisplacement_eq, fetchDisplacement_eq, hu.bus, hu.pc]

theorem takeInstr_error {s : State} {e : Fault × Bus} (h : s.takeInstr = .error e) :
    (u s).takeInstr = .error e := by
  cases hd : decodeOpcode s.imode (s.bus.fetchAnswer s.pc) with
  | error r =>
    rw [Machine.takeInstr_error hd] at h
    rw [Machine.takeInstr_error ((hu.decodeOpcode_eq s).trans hd), hu.fetchOpcode, hu.bus, hu.bus, hu.pc, h]
  | ok o =>
    cases o with
    | complete i => rw [takeInstr_complete hd] at h; cases h
    | displaced k p => rw [takeInstr_displaced hd] at h; cases h

theorem takeInstr_ok {s s1 : State} {i : Instr} (h : s.takeInstr = .ok (i, s1)) :
    ∃ s1', (u s).takeInstr = .ok (i, s1') ∧ SameUpTo u s1 s1' := by
  rcases takeInstr_ok_cases h with ⟨hd, rfl⟩ | ⟨k, p, hd, rfl, rfl⟩
  · exact ⟨_, takeInstr_complete ((hu.decodeOpcode_eq s).trans hd), .inr (hu.fetchOpcode s)⟩
  · refine ⟨((u s).fetchOpcode.2.fetchDisplacement p).2, ?_, ?_⟩
    · rw [takeInstr_displaced ((hu.decodeOpcode_eq s).trans hd), hu.displacement_eq]
    · rw [hu.fetchOpcode]
      exact hu.fetchDisplacement _ p

theorem exec_next {i : Instr} {s t : State} (h : exec i s = .next t) :
    ∃ t', exec i (u s) = .next t' ∧ SameUpTo u t t' := by
  rcases exec_cases i s with ⟨m, hm, he⟩ | ⟨d, -, hd, he⟩ <;> rw [he] at h <;> cases h
  · exact ⟨_, exec_of_prefixMode _ hm, .inr (hu.setImode s m)⟩
  · refine ⟨_, exec_of_descriptor ((descriptor?_congr (hu.ix s) (hu.iy s) i).trans hd), ?_⟩
    rcases hu.runHook s d with hr | hr <;> rw [hr]
    · exact .inl rfl
    · exact .inr (hu.setImode _ _)

/-- A step that completes does the same after `u`, but for what `u` put there. -/
theorem step_next {s t : State} (h : step s = .next t) :
    step (u s) = .next t ∨ step (u s) = .next (u t) := by
  rcases step_next_cases h with ⟨hr, rfl⟩ | ⟨hr, i, s1, ht, he⟩
  · exact .inr (step_halted ((hu.run _).trans hr))
  · obtain ⟨s1', ht', hs1⟩ := hu.takeInstr_ok ht
    have hstep : step (u s) = exec i s1' := by rw [step_running ((hu.run s).trans hr), ht']
    rw [hstep]
    rcases hs1 with rfl | rfl
    · exact .inl he
    · obtain ⟨t', he', rfl | rfl⟩ := hu.exec_next he
      · exact .inl he'
      · exact .inr he'

/-- A step that faults raises the same fault after `u`. -/
theorem step_fault {s : State} {e : Fault} (h : step s = .fault e) : step (u s) = .fault e := by
  obtain ⟨hr, b, ht⟩ := step_fault_cases h
  rw [step_running ((hu.run s).trans hr), hu.takeInstr_error ht]

end Unread

/-! ## F (R30, R31) -/

theorem readOperand_setF (s : State) (f : Byte) (o : Operand) :
    (s.setF f).readOperand o = ((s.readOperand o).1, (s.readOperand o).2.setF f) := by
  cases o with
  | memHl => rfl
  | memIdx p d ea => rfl
  | reg z m =>
    cases z with
    | a => exact congrArg (·, s.setF f) (setF_a s f)
    | h => cases m <;> rfl
    | l => cases m <;> rfl
    | _ => rfl

/-- The ALU hook writes AF whole and reads A alone of it, so no F before it shows (R30). -/
theorem hookAlu_setF (s : State) (f : Byte) (k : AluOp) (o : Operand) : (s.setF f).hookAlu k o = s.hookAlu k o := by
  rw [hookAlu_eq, hookAlu_eq, readOperand_setF, setF_a, State.setF_pAndH]
  rfl

theorem unread_setF (f : Byte) : Unread (State.setF · f) where
  run _ := rfl
  pc _ := rfl
  imode _ := rfl
  bus _ := rfl
  ix _ := rfl
  iy _ := rfl
  setImode _ _ := rfl
  fetchOpcode _ := rfl
  fetchDisplacement _ p := .inr (by cases p <;> rfl)
  runHook s d := by
    cases d with
    | alu k o => exact .inl (hookAlu_setF s f k o)
    | nop => exact .inr rfl
    | di => exact .inr rfl

/-! ## IFF1 and IFF2 (R32) -/

theorem readOperand_setIffs (s : State) (x y : Bool) (o : Operand) :
    (s.setIffs x y).readOperand o = ((s.readOperand o).1, (s.readOperand o).2.setIffs x y) := by
  cases o with
  | memHl => rfl
  | memIdx p d ea => rfl
  | reg z m => cases z <;> cases m <;> rfl

theorem hookAlu_setIffs (s : State) (x y : Bool) (k : AluOp) (o : Operand) :
    (s.setIffs x y).hookAlu k o = (s.hookAlu k o).setIffs x y := by
  rw [hookAlu_eq, hookAlu_eq, readOperand_setIffs]
  rfl

theorem unread_setIffs (x y : Bool) : Unread (State.setIffs · x y) where
  run _ := rfl
  pc _ := rfl
  imode _ := rfl
  bus _ := rfl
  ix _ := rfl
  iy _ := rfl
  setImode _ _ := rfl
  fetchOpcode _ := rfl
  fetchDisplacement _ p := .inr (by cases p <;> rfl)
  runHook s d := by
    cases d with
    | alu k o => exact .inr (hookAlu_setIffs s x y k o)
    | nop => exact .inr rfl
    | di => exact .inl rfl

/-! ## Logical H and L (R25) -/

theorem setLogH_logH (s : State) (m : IndexMode) (v : Byte) : (s.setLogH m v).logH m = v := by
  rw [State.logH, State.setLogH, State.writeHigh, State.readHigh, State.setPair_readPair, if_pos rfl, hiByte_mkPair]

theorem setLogL_logL (s : State) (m : IndexMode) (v : Byte) : (s.setLogL m v).logL m = v := by
  rw [State.logL, State.setLogL, State.writeLow, State.readLow, State.setPair_readPair, if_pos rfl, loByte_mkPair]

/-- Only the slots H and L are resolved by the mode (R25, R74). -/
theorem readSlot_mode_eq (s : State) (m m' : IndexMode) {r : Slot} (hh : r ≠ .h) (hl : r ≠ .l) :
    s.readSlot m r = s.readSlot m' r := by
  cases r with
  | h => exact absurd rfl hh
  | l => exact absurd rfl hl
  | _ => rfl

/-- No instruction writes a logical H or L, under any mode (R25). -/
theorem exec_keeps_logical_hl {i : Instr} {s t : State} (h : exec i s = .next t) (m : IndexMode) :
    t.logH m = s.logH m ∧ t.logL m = s.logL m := by
  obtain ⟨_, _, _, _, _, _, rfl, -⟩ := exec_frame h
  cases m <;> exact ⟨rfl, rfl⟩

/-! ## The obligations -/

/-- Settles O8: the accessors are halves of the mode's pair, and every instruction keeps the three pairs. -/
theorem logicalHLFollowsIndexMode : Obligations.LogicalHLFollowsIndexMode := by
  unfold Obligations.LogicalHLFollowsIndexMode
  intro s v
  have hread : ∀ m, s.logH m = Spec.hi (s.readPair (hlPair m)) ∧ s.logL m = Spec.lo (s.readPair (hlPair m)) :=
    fun m => ⟨hiByte_eq_specHi _, loByte_eq_specLo _⟩
  have hwrite : ∀ m,
      s.setLogH m v = s.setPair (Spec.pair v (Spec.lo (s.readPair (hlPair m)))) (hlPair m) ∧
      s.setLogL m v = s.setPair (Spec.pair (Spec.hi (s.readPair (hlPair m))) v) (hlPair m) := by
    intro m
    simp only [State.setLogH, State.setLogL, State.writeHigh, State.writeLow, State.readHigh, State.readLow,
      mkPair_eq_specPair, hiByte_eq_specHi, loByte_eq_specLo, and_self]
  exact ⟨(hread .direct).1, (hread .indexedX).1, (hread .indexedY).1,
    (hread .direct).2, (hread .indexedX).2, (hread .indexedY).2,
    (hwrite .direct).1, (hwrite .indexedX).1, (hwrite .indexedY).1,
    (hwrite .direct).2, (hwrite .indexedX).2, (hwrite .indexedY).2,
    fun m => ⟨setLogH_logH s m v, setLogL_logL s m v⟩,
    fun m m' _ hh hl => readSlot_mode_eq s m m' hh hl,
    fun _ _ h m => exec_keeps_logical_hl h m⟩

/-- Settles O24: an ALU row is one ALU hook, which does not show the F before it. -/
theorem aluWritesAllOfFlags : Obligations.AluWritesAllOfFlags := by
  unfold Obligations.AluWritesAllOfFlags
  constructor
  · intro s f i k o hd
    have hd' : (s.setF f).descriptor? i = some (.alu k o) := (descriptor?_congr rfl rfl i).trans hd
    have hhook : (s.setF f).runHook (.alu k o) = s.runHook (.alu k o) := hookAlu_setF s f k o
    exact ⟨by rw [exec_of_descriptor hd', exec_of_descriptor hd, hhook], _, exec_of_descriptor hd⟩
  · rintro s i (rfl | rfl | rfl | rfl) <;> exact ⟨_, rfl, rfl⟩

/-- Settles O25: nothing in a step reads F, and construction takes AF from INIT. -/
theorem noStepReadsFlags : Obligations.NoStepReadsFlags := by
  unfold Obligations.NoStepReadsFlags
  exact ⟨fun _ _ f h => (unread_setF f).step_next h, fun _ f _ h => (unread_setF f).step_fault h,
    fun init _ _ => loByte_eq_specLo init.af⟩

/-- Settles O29: DI's hook is the only one that writes the flip-flops, and nothing in a step reads them. -/
theorem flipFlopsWrittenOnlyByDi : Obligations.FlipFlopsWrittenOnlyByDi := by
  unfold Obligations.FlipFlopsWrittenOnlyByDi
  exact ⟨fun _ => ⟨_, rfl, rfl, rfl⟩, fun _ _ _ hi h => exec_keeps_iffs hi h,
    fun _ _ x y h => (unread_setIffs x y).step_next h, fun _ x y _ h => (unread_setIffs x y).step_fault h⟩

end Sys2Proof.Proofs
end

section
/-! PROOFS. The family 30_encoding.md: decoder and encoder. First the fields of a byte as numbers (R71 to R73) and what the
opcode map makes of a byte, said once in the statements' own terms (`byteKind`, R77, R78). -/

namespace Sys2Proof.Proofs

open Sys2Proof.Machine

/-! ## Fields as numbers (R71 to R73) -/

theorem fieldX_toNat (b : Byte) : (fieldX b).toNat = b.toNat / 64 := by
  have := b.isLt
  simp only [fieldX, BitVec.extractLsb'_toNat, Nat.shiftRight_eq_div_pow]
  omega

theorem fieldY_toNat (b : Byte) : (fieldY b).toNat = b.toNat / 8 % 8 := by
  simp only [fieldY, BitVec.extractLsb'_toNat, Nat.shiftRight_eq_div_pow]

theorem fieldZ_toNat (b : Byte) : (fieldZ b).toNat = b.toNat % 8 := by
  simp only [fieldZ, BitVec.extractLsb'_toNat, Nat.shiftRight_zero]

/-- The y field of an operation (R72). -/
def aluCode : AluOp → Nat
  | .and => 4
  | .xor => 5
  | .or => 6

/-- The z field of a register slot (R73). -/
def slotCode : Slot → Nat
  | .b => 0
  | .c => 1
  | .d => 2
  | .e => 3
  | .h => 4
  | .l => 5
  | .a => 7

/-- The mode under which `(IX+d)` or `(IY+d)` is selected (R74). -/
def regMode : IndexReg → IndexMode
  | .ix => .indexedX
  | .iy => .indexedY

theorem aluOp?_eq_some_iff {y : BitVec 3} {k : AluOp} : aluOp? y = some k ↔ y.toNat = aluCode k := by
  revert y
  cases k <;> decide

theorem slot?_eq_some_iff {z : BitVec 3} {r : Slot} : slot? z = some r ↔ z.toNat = slotCode r := by
  revert z
  cases r <;> decide

theorem slot?_eq_none_iff {z : BitVec 3} : slot? z = none ↔ z.toNat = 6 := by
  revert z
  decide

theorem slotCode_ne_six (r : Slot) : slotCode r ≠ 6 := by
  cases r <;> decide

/-- The ALU bytes are those of class 2 whose y field names an operation (R72, R77). -/
theorem aluByte_iff (b : Byte) : Spec.aluByte b = true ↔ b.toNat / 64 = 2 ∧ ∃ k, b.toNat / 8 % 8 = aluCode k := by
  have hk : (∃ k, b.toNat / 8 % 8 = aluCode k) ↔
      b.toNat / 8 % 8 = 4 ∨ b.toNat / 8 % 8 = 5 ∨ b.toNat / 8 % 8 = 6 := by
    constructor
    · rintro ⟨k, hk⟩
      cases k <;> simp [hk, aluCode]
    · rintro (h | h | h)
      exacts [⟨.and, h⟩, ⟨.xor, h⟩, ⟨.or, h⟩]
  simp [Spec.aluByte, hk, or_assoc]

/-- The four control bytes are no ALU bytes. -/
theorem aluByte_control {b : Byte} (h : Spec.aluByte b = true) :
    b ≠ 0xDD#8 ∧ b ≠ 0xFD#8 ∧ b ≠ 0x00#8 ∧ b ≠ 0xF3#8 := by
  refine ⟨?_, ?_, ?_, ?_⟩ <;> rintro rfl <;> revert h <;> decide

/-! ## The opcode map (R77, R78) -/

/-- What a byte is under a mode, and what `decodeOpcode` has to answer for it (R74, R77, R78). -/
inductive ByteKind (m : IndexMode) (b : Byte) : Except DecodeReject Opcode → Prop where
  | prefixDD (h : b = 0xDD#8) : ByteKind m b (.ok (.complete .prefixDD))
  | prefixFD (h : b = 0xFD#8) : ByteKind m b (.ok (.complete .prefixFD))
  | nop (h : b = 0x00#8) : ByteKind m b (.ok (.complete .nop))
  | di (h : b = 0xF3#8) : ByteKind m b (.ok (.complete .di))
  | register (k : AluOp) (r : Slot) (ha : Spec.aluByte b = true) (hy : b.toNat / 8 % 8 = aluCode k)
      (hz : b.toNat % 8 = slotCode r) : ByteKind m b (.ok (.complete (aluReg k r m)))
  | memHl (k : AluOp) (ha : Spec.aluByte b = true) (hy : b.toNat / 8 % 8 = aluCode k) (hz : b.toNat % 8 = 6)
      (hm : m = .direct) : ByteKind m b (.ok (.complete (aluMemHl k)))
  | indexed (k : AluOp) (p : IndexReg) (ha : Spec.aluByte b = true) (hy : b.toNat / 8 % 8 = aluCode k)
      (hz : b.toNat % 8 = 6) (hm : m = regMode p) : ByteKind m b (.ok (.displaced k p))
  | unlisted (h : Spec.listed b = false) : ByteKind m b (.error (.noTableEntry b))

/-- A class-2 row: a register slot, or the memory slot resolved by the mode (R74). -/
theorem byteKind_class2 (m : IndexMode) {b : Byte} {k : AluOp} (ha : Spec.aluByte b = true)
    (hy : b.toNat / 8 % 8 = aluCode k) : ByteKind m b (.ok (decodeClass2 m k (fieldZ b))) := by
  unfold decodeClass2
  cases hs : slot? (fieldZ b) with
  | some r => exact .register k r ha hy ((fieldZ_toNat b).symm.trans (slot?_eq_some_iff.1 hs))
  | none =>
    have hz : b.toNat % 8 = 6 := (fieldZ_toNat b).symm.trans (slot?_eq_none_iff.1 hs)
    cases m with
    | direct => exact .memHl k ha hy hz rfl
    | indexedX => exact .indexed k .ix ha hy hz rfl
    | indexedY => exact .indexed k .iy ha hy hz rfl

theorem listed_of_aluByte {b : Byte} (h : Spec.aluByte b = true) : Spec.listed b = true := by
  simp [Spec.listed, h]

theorem fieldX_eq_two_iff (b : Byte) : fieldX b = 2#2 ↔ b.toNat / 64 = 2 := by
  rw [← BitVec.toNat_inj, fieldX_toNat]
  rfl

theorem decodeOpcode_aluByte (m : IndexMode) {b : Byte} {k : AluOp} (ha : Spec.aluByte b = true)
    (hy : b.toNat / 8 % 8 = aluCode k) : decodeOpcode m b = .ok (decodeClass2 m k (fieldZ b)) := by
  obtain ⟨hdd, hfd, hnop, hdi⟩ := aluByte_control ha
  have hx := (fieldX_eq_two_iff b).2 ((aluByte_iff b).1 ha).1
  have hk : aluOp? (fieldY b) = some k := aluOp?_eq_some_iff.2 ((fieldY_toNat b).trans hy)
  simp only [decodeOpcode, hdd, hfd, hnop, hdi, hx, hk, if_true, if_false]

theorem decodeOpcode_unlisted (m : IndexMode) {b : Byte} (h : Spec.listed b = false) :
    decodeOpcode m b = .error (.noTableEntry b) := by
  simp only [Spec.listed, Bool.or_eq_false_iff, decide_eq_false_iff_not] at h
  obtain ⟨⟨⟨⟨hnop, hdi⟩, hdd⟩, hfd⟩, ha⟩ := h
  simp only [decodeOpcode, hdd, hfd, hnop, hdi, if_false]
  split
  · next hx =>
    cases hk : aluOp? (fieldY b) with
    | none => rfl
    | some k =>
      have hy := (fieldY_toNat b).symm.trans (aluOp?_eq_some_iff.1 hk)
      rw [(aluByte_iff b).2 ⟨(fieldX_eq_two_iff b).1 hx, k, hy⟩] at ha
      cases ha
  · rfl

/-- A byte is unlisted, an ALU byte, or one of the four control bytes (R76 to R78). -/
theorem byte_cases (b : Byte) :
    Spec.listed b = false ∨ Spec.aluByte b = true ∨ b = 0xDD#8 ∨ b = 0xFD#8 ∨ b = 0x00#8 ∨ b = 0xF3#8 := by
  cases hl : Spec.listed b with
  | false => exact .inl rfl
  | true =>
    simp only [Spec.listed, Bool.or_eq_true, decide_eq_true_eq] at hl
    tauto

/-- `decodeOpcode` answers what the byte's kind calls for, under every mode. -/
theorem byteKind (m : IndexMode) (b : Byte) : ByteKind m b (decodeOpcode m b) := by
  rcases byte_cases b with hl | ha | rfl | rfl | rfl | rfl
  · rw [decodeOpcode_unlisted m hl]
    exact .unlisted hl
  · obtain ⟨-, k, hy⟩ := (aluByte_iff b).1 ha
    rw [decodeOpcode_aluByte m ha hy]
    exact byteKind_class2 m ha hy
  · exact .prefixDD rfl
  · exact .prefixFD rfl
  · exact .nop rfl
  · exact .di rfl

/-- A byte that decodes is listed ... -/
theorem listed_of_decodeOpcode {m : IndexMode} {b : Byte} {o : Opcode} (h : decodeOpcode m b = .ok o) :
    Spec.listed b = true := by
  cases hl : Spec.listed b with
  | true => rfl
  | false => rw [decodeOpcode_unlisted m hl] at h; cases h

/-- ... and every listed byte decodes. -/
theorem decodeOpcode_listed (m : IndexMode) {b : Byte} (h : Spec.listed b = true) : ∃ o, decodeOpcode m b = .ok o := by
  cases ho : decodeOpcode m b with
  | ok o => exact ⟨o, rfl⟩
  | error e =>
    cases ho ▸ byteKind m b with
    | unlisted hl => rw [h] at hl; cases hl

/-! ## Decoding what was encoded (R70, R83) -/

theorem eq_of_wf {m m' : IndexMode} {i : Instr} (h : i.wf m = true) (hi : i.mode? = some m') : m = m' := by
  simpa [Instr.wf, hi] using h

theorem decodeOpcode_aluMemIdx (k : AluOp) (p : IndexReg) (d : Byte) :
    decodeOpcode (regMode p) (opcodeByte (aluMemIdx k p d)) = .ok (.displaced k p) := by
  have hd : opcodeByte (aluMemIdx k p d) = opcodeByte (aluMemIdx k p 0x00#8) := by
    cases k <;> cases p <;> rfl
  rw [hd]
  cases k <;> cases p <;> rfl

/-- Under a mode that selects it, the opcode byte of a row decodes to the row, or to the operation and register that its
displacement byte completes. -/
theorem decodeOpcode_opcodeByte {m : IndexMode} {i : Instr} (h : i.wf m = true) :
    (displacement? i = none ∧ decodeOpcode m (opcodeByte i) = .ok (.complete i)) ∨
      ∃ k p d, i = aluMemIdx k p d ∧ displacement? i = some d ∧
        decodeOpcode m (opcodeByte i) = .ok (.displaced k p) := by
  cases i with
  | andH | andL | andMemHl | xorH | xorL | xorMemHl | orH | orL | orMemHl =>
    obtain rfl := eq_of_wf h rfl
    exact .inl ⟨rfl, rfl⟩
  | andIxh | andIxl | xorIxh | xorIxl | orIxh | orIxl | andIyh | andIyl | xorIyh | xorIyl | orIyh | orIyl =>
    obtain rfl := eq_of_wf h rfl
    exact .inl ⟨rfl, rfl⟩
  | andMemIx d => obtain rfl := eq_of_wf h rfl; exact .inr ⟨.and, .ix, d, rfl, rfl, decodeOpcode_aluMemIdx .and .ix d⟩
  | andMemIy d => obtain rfl := eq_of_wf h rfl; exact .inr ⟨.and, .iy, d, rfl, rfl, decodeOpcode_aluMemIdx .and .iy d⟩
  | xorMemIx d => obtain rfl := eq_of_wf h rfl; exact .inr ⟨.xor, .ix, d, rfl, rfl, decodeOpcode_aluMemIdx .xor .ix d⟩
  | xorMemIy d => obtain rfl := eq_of_wf h rfl; exact .inr ⟨.xor, .iy, d, rfl, rfl, decodeOpcode_aluMemIdx .xor .iy d⟩
  | orMemIx d => obtain rfl := eq_of_wf h rfl; exact .inr ⟨.or, .ix, d, rfl, rfl, decodeOpcode_aluMemIdx .or .ix d⟩
  | orMemIy d => obtain rfl := eq_of_wf h rfl; exact .inr ⟨.or, .iy, d, rfl, rfl, decodeOpcode_aluMemIdx .or .iy d⟩
  | _ => exact .inl ⟨rfl, rfl⟩

theorem decode_complete {m : IndexMode} {b : Byte} {i : Instr} (h : decodeOpcode m b = .ok (.complete i))
    (rest : List Byte) : decode m (b :: rest) = .ok (i, rest) := by
  simp only [decode, h]

theorem decode_displaced {m : IndexMode} {b : Byte} {k : AluOp} {p : IndexReg}
    (h : decodeOpcode m b = .ok (.displaced k p)) (d : Byte) (rest : List Byte) :
    decode m (b :: d :: rest) = .ok (aluMemIdx k p d, rest) := by
  simp only [decode, h]

/-- Bytes that decode start with a byte that decodes, and are the two kinds of R70. -/
theorem decode_ok_cases {m : IndexMode} {b : Byte} {bs rest : List Byte} {i : Instr}
    (h : decode m (b :: bs) = .ok (i, rest)) :
    (decodeOpcode m b = .ok (.complete i) ∧ bs = rest) ∨
      ∃ k p d, decodeOpcode m b = .ok (.displaced k p) ∧ i = aluMemIdx k p d ∧ bs = d :: rest := by
  cases ho : decodeOpcode m b with
  | error e => simp only [decode, ho] at h; cases h
  | ok o =>
    cases o with
    | complete j =>
      rw [decode_complete ho] at h
      cases h
      exact .inl ⟨rfl, rfl⟩
    | displaced k p =>
      cases bs with
      | nil => simp only [decode, ho] at h; cases h
      | cons d bs =>
        rw [decode_displaced ho] at h
        cases h
        exact .inr ⟨k, p, d, rfl, rfl, rfl⟩

/-- Settles O2: the opcode byte decodes to the row, or to what the displacement byte completes. -/
theorem decodeInvertsEncode : Obligations.DecodeInvertsEncode := by
  unfold Obligations.DecodeInvertsEncode
  intro m i rest h
  rcases decodeOpcode_opcodeByte h with ⟨hd, ho⟩ | ⟨k, p, d, hi, hd, ho⟩
  · simpa [encode, hd] using decode_complete ho rest
  · simpa [encode, hd, ← hi] using decode_displaced ho d rest

/-! ## Encoding what was decoded -/

theorem aluByte_toNat {b : Byte} (ha : Spec.aluByte b = true) :
    b.toNat = 128 + 8 * (b.toNat / 8 % 8) + b.toNat % 8 := by
  have := ((aluByte_iff b).1 ha).1
  omega

/-- The opcode byte of a register row, by its fields (R71, R77). -/
theorem opcodeByte_aluReg (k : AluOp) (r : Slot) (m : IndexMode) :
    (opcodeByte (aluReg k r m)).toNat = 128 + 8 * aluCode k + slotCode r := by
  cases k <;> cases r <;> cases m <;> rfl

theorem opcodeByte_aluMemHl (k : AluOp) : (opcodeByte (aluMemHl k)).toNat = 128 + 8 * aluCode k + 6 := by
  cases k <;> rfl

theorem opcodeByte_aluMemIdx (k : AluOp) (p : IndexReg) (d : Byte) :
    (opcodeByte (aluMemIdx k p d)).toNat = 128 + 8 * aluCode k + 6 := by
  cases k <;> cases p <;> rfl

theorem displacement?_aluReg (k : AluOp) (r : Slot) (m : IndexMode) : displacement? (aluReg k r m) = none := by
  cases k <;> cases r <;> cases m <;> rfl

theorem displacement?_aluMemIdx (k : AluOp) (p : IndexReg) (d : Byte) : displacement? (aluMemIdx k p d) = some d := by
  cases k <;> cases p <;> rfl

theorem wf_aluReg (k : AluOp) (r : Slot) (m : IndexMode) : (aluReg k r m).wf m = true := by
  cases k <;> cases r <;> cases m <;> rfl

theorem wf_aluMemIdx (k : AluOp) (p : IndexReg) (d : Byte) : (aluMemIdx k p d).wf (regMode p) = true := by
  cases k <;> cases p <;> rfl

/-- A row complete in one byte is one the mode selects, and the byte is its encoding. -/
theorem wf_encode_of_complete {m : IndexMode} {b : Byte} {i : Instr} (h : decodeOpcode m b = .ok (.complete i)) :
    i.wf m = true ∧ encode i = [b] := by
  cases h ▸ byteKind m b with
  | prefixDD hb | prefixFD hb | nop hb | di hb => subst hb; exact ⟨rfl, rfl⟩
  | register k r ha hy hz =>
    have hb : opcodeByte (aluReg k r m) = b :=
      BitVec.eq_of_toNat_eq (by rw [opcodeByte_aluReg, aluByte_toNat ha, hy, hz])
    exact ⟨wf_aluReg k r m, by rw [encode, displacement?_aluReg, hb, Option.toList_none]⟩
  | memHl k ha hy hz hm =>
    have hb : opcodeByte (aluMemHl k) = b :=
      BitVec.eq_of_toNat_eq (by rw [opcodeByte_aluMemHl, aluByte_toNat ha, hy, hz])
    subst hm hb
    cases k <;> exact ⟨rfl, rfl⟩

/-- The same of an operation on `(IX+d)` or `(IY+d)`, whatever the displacement. -/
theorem wf_encode_of_displaced {m : IndexMode} {b : Byte} {k : AluOp} {p : IndexReg}
    (h : decodeOpcode m b = .ok (.displaced k p)) (d : Byte) :
    (aluMemIdx k p d).wf m = true ∧ encode (aluMemIdx k p d) = [b, d] := by
  cases h ▸ byteKind m b with
  | indexed k p ha hy hz hm =>
    have hb : opcodeByte (aluMemIdx k p d) = b :=
      BitVec.eq_of_toNat_eq (by rw [opcodeByte_aluMemIdx, aluByte_toNat ha, hy, hz])
    exact ⟨hm ▸ wf_aluMemIdx k p d, by rw [encode, displacement?_aluMemIdx, hb, Option.toList_some]⟩

/-- Settles O3: by the two kinds of byte strings that decode. -/
theorem decodedBytesAreTheEncoding : Obligations.DecodedBytesAreTheEncoding := by
  unfold Obligations.DecodedBytesAreTheEncoding
  intro m bs i rest h
  cases bs with
  | nil => cases h
  | cons b bs =>
    rcases decode_ok_cases h with ⟨ho, rfl⟩ | ⟨k, p, d, ho, rfl, rfl⟩
    · obtain ⟨hwf, he⟩ := wf_encode_of_complete ho
      exact ⟨hwf, by rw [he, List.singleton_append]⟩
    · obtain ⟨hwf, he⟩ := wf_encode_of_displaced ho d
      exact ⟨hwf, by rw [he]; rfl⟩

/-! ## Lengths, rejections and the mode (R78 to R80) -/

theorem takesDisplacement_eq_true_iff {m : IndexMode} {b : Byte} :
    Spec.takesDisplacement m b = true ↔ Spec.aluByte b = true ∧ b.toNat % 8 = 6 ∧ m ≠ .direct := by
  simp [Spec.takesDisplacement, and_assoc]

theorem regMode_ne_direct (p : IndexReg) : regMode p ≠ .direct := by
  cases p <;> decide

/-- A row is complete in one byte exactly where no displacement follows (R80). -/
theorem takesDisplacement_of_complete {m : IndexMode} {b : Byte} {i : Instr}
    (h : decodeOpcode m b = .ok (.complete i)) : Spec.takesDisplacement m b = false := by
  refine Bool.eq_false_iff.2 fun ht => ?_
  obtain ⟨ha, hz, hm⟩ := takesDisplacement_eq_true_iff.1 ht
  obtain ⟨hdd, hfd, hnop, hdi⟩ := aluByte_control ha
  cases h ▸ byteKind m b with
  | prefixDD hb => exact hdd hb
  | prefixFD hb => exact hfd hb
  | nop hb => exact hnop hb
  | di hb => exact hdi hb
  | register k r _ _ hr => exact slotCode_ne_six r (hr.symm.trans hz)
  | memHl k _ _ _ hd => exact hm hd

theorem takesDisplacement_of_displaced {m : IndexMode} {b : Byte} {k : AluOp} {p : IndexReg}
    (h : decodeOpcode m b = .ok (.displaced k p)) : Spec.takesDisplacement m b = true := by
  cases h ▸ byteKind m b with
  | indexed k p ha hy hz hm => exact takesDisplacement_eq_true_iff.2 ⟨ha, hz, hm ▸ regMode_ne_direct p⟩

/-- Settles O6: a decode takes the displacement byte exactly where the opcode is displaced. -/
theorem firstByteAndModeGiveTheLength : Obligations.FirstByteAndModeGiveTheLength := by
  unfold Obligations.FirstByteAndModeGiveTheLength
  intro m b bs i rest h
  rcases decode_ok_cases h with ⟨ho, rfl⟩ | ⟨k, p, d, ho, -, rfl⟩
  · simp [takesDisplacement_of_complete ho, Nat.add_comm]
  · simp [takesDisplacement_of_displaced ho, Nat.add_comm 2]

theorem listed_count : ((List.range 256).filter (fun n => !Spec.listed (BitVec.ofNat 8 n))).length = 228 := by
  rfl

/-- Settles O4: the map lists a byte or it does not, and `decodeOpcode` follows the map. -/
theorem unlistedBytesAreRejected : Obligations.UnlistedBytesAreRejected := by
  unfold Obligations.UnlistedBytesAreRejected
  refine ⟨fun m b => ⟨fun h => ?_, decodeOpcode_unlisted m⟩, fun m b => decodeOpcode_listed m, listed_count⟩
  cases hl : Spec.listed b with
  | false => rfl
  | true =>
    obtain ⟨o, ho⟩ := decodeOpcode_listed m hl
    rw [ho] at h
    cases h

/-- Only H, L and the memory slot are resolved by the mode (R74). -/
theorem aluReg_mode_eq {r : Slot} (hh : r ≠ .h) (hl : r ≠ .l) (k : AluOp) (m m' : IndexMode) :
    aluReg k r m = aluReg k r m' := by
  cases r with
  | h => exact absurd rfl hh
  | l => exact absurd rfl hl
  | _ => cases k <;> rfl

/-- Settles O5: a class-2 row is a register slot that only H and L let the mode resolve, or the memory slot. -/
theorem modeMattersOnlyInHLAndMemorySlots : Obligations.ModeMattersOnlyInHLAndMemorySlots := by
  unfold Obligations.ModeMattersOnlyInHLAndMemorySlots
  intro m m' b hne
  rcases byte_cases b with hl | ha | rfl | rfl | rfl | rfl
  · exact absurd ((decodeOpcode_unlisted m hl).trans (decodeOpcode_unlisted m' hl).symm) hne
  · refine ⟨ha, ?_⟩
    obtain ⟨-, k, hy⟩ := (aluByte_iff b).1 ha
    rw [decodeOpcode_aluByte m ha hy, decodeOpcode_aluByte m' ha hy] at hne
    cases hs : slot? (fieldZ b) with
    | none => exact .inr (.inr ((fieldZ_toNat b).symm.trans (slot?_eq_none_iff.1 hs)))
    | some r =>
      have hz : b.toNat % 8 = slotCode r := (fieldZ_toNat b).symm.trans (slot?_eq_some_iff.1 hs)
      by_cases hh : r = .h
      · exact .inl (by rw [hz, hh]; rfl)
      by_cases hl : r = .l
      · exact .inr (.inl (by rw [hz, hl]; rfl))
      exact absurd (by simp only [decodeClass2, hs, aluReg_mode_eq hh hl k m m']) hne
  all_goals exact absurd rfl hne

/-- Settles O1: by evaluation. -/
theorem specWordsDecode : Obligations.SpecWordsDecode := by
  unfold Obligations.SpecWordsDecode
  decide

end Sys2Proof.Proofs
end

section
/-! PROOFS. The families 10_state.md (pairs, construction) and 41_alu_logical.md: what every instruction answers, in the
statements' own terms (R131 to R152). -/

namespace Sys2Proof.Proofs

open Sys2Proof.Machine

/-! ## Pairs and halves (R22 to R24) -/

theorem writeHigh_readPair (s : State) (p q : Pair) (v : Byte) :
    (s.writeHigh p v).readPair q = if p = q then mkPair v (s.readLow p) else s.readPair q :=
  State.setPair_readPair ..

theorem writeLow_readPair (s : State) (p q : Pair) (v : Byte) :
    (s.writeLow p v).readPair q = if p = q then mkPair (s.readHigh p) v else s.readPair q :=
  State.setPair_readPair ..

/-- The two 8-bit writes of a 16-bit write leave the whole value (R24). -/
theorem writePair_readPair (s : State) (p q : Pair) (v : Word) :
    (s.writePair p v).readPair q = if p = q then v else s.readPair q := by
  rw [State.writePair, writeHigh_readPair]
  split
  · rw [State.readLow, writeLow_readPair, if_pos rfl, loByte_mkPair, mkPair_hi_lo]
  · next h => rw [writeLow_readPair, if_neg h]

/-- Settles O7: each write is one storage write of the pair. -/
theorem pairAndHalfAccessors : Obligations.PairAndHalfAccessors := by
  unfold Obligations.PairAndHalfAccessors
  intro s p v b
  refine ⟨?_, ?_, ?_, ?_, ?_, ?_, ?_, fun q hq => ⟨?_, ?_, ?_⟩⟩
  · rw [writePair_readPair, if_pos rfl]
  · rw [State.readHigh, writePair_readPair, if_pos rfl, hiByte_eq_specHi]
  · rw [State.readLow, writePair_readPair, if_pos rfl, loByte_eq_specLo]
  · rw [State.readHigh, writeHigh_readPair, if_pos rfl, hiByte_mkPair]
  · rw [State.readLow, writeHigh_readPair, if_pos rfl, loByte_mkPair]
  · rw [State.readLow, writeLow_readPair, if_pos rfl, loByte_mkPair]
  · rw [State.readHigh, writeLow_readPair, if_pos rfl, hiByte_mkPair]
  · rw [writePair_readPair, if_neg hq.symm]
  · rw [writeHigh_readPair, if_neg hq.symm]
  · rw [writeLow_readPair, if_neg hq.symm]

/-! ## Construction (R40, R240, R241) -/

/-- Settles O9: an external reset is a construction. -/
theorem constructionValues : Obligations.ConstructionValues := by
  unfold Obligations.ConstructionValues
  intro init h b s t ht
  have hc : ∃ h' b', t = State.construct init h' b' := by
    rcases ht with rfl | rfl
    · exact ⟨h, b, rfl⟩
    · exact ⟨s.pAndH, { s.bus with trace := [] }, rfl⟩
  obtain ⟨h', b', rfl⟩ := hc
  simp

/-- Settles O10: reset is a construction on a bus that lists nothing. -/
theorem resetValues : Obligations.ResetValues := by
  unfold Obligations.ResetValues
  exact ⟨rfl, rfl, rfl, rfl, fun _ => rfl⟩

/-! ## Flags (R131, R132) -/

theorem parity_iff_ones_even (r : Byte) : parity r = true ↔ Spec.ones r % 2 = 0 := by
  have hones : popcount r = Spec.ones r := by
    simp only [popcount, Spec.ones, List.range_succ, List.range_zero, List.nil_append, List.cons_append,
      List.countP_cons, List.countP_nil, Bool.toNat, Bool.cond_eq_ite]
    ring
  rw [parity, hones, beq_iff_eq]

/-- `LogicFlags` in the closed form of R131. -/
theorem logicFlags_eq_specFlags (r : Byte) (h : Bool) : logicFlags r h = Spec.flags r h := by
  simp only [logicFlags_closed, Spec.flags, parity_iff_ones_even]

/-- Settles O11: each flag is put at its own bit and read there. -/
theorem logicFlagsBitByBit : Obligations.LogicFlagsBitByBit := by
  unfold Obligations.LogicFlagsBitByBit
  intro r h
  have hz : decide (r = 0#8) = (r == 0#8) := rfl
  have hp : decide (Spec.ones r % 2 = 0) = parity r := by
    simp [← parity_iff_ones_even]
  rw [hz, hp]
  refine ⟨?_, ?_, ?_, ?_, ?_, ?_, ?_, ?_, fun f => ⟨rfl, rfl, rfl, rfl, rfl, rfl, rfl, rfl⟩⟩
  all_goals simp [Flag.get, Flag.bit, logicFlags, Flag.put]

/-- Settles O12: the count of one bits is the sum of the bits, and P/V is put at bit 2. -/
theorem parityIsEvenPopulationCount : Obligations.ParityIsEvenPopulationCount := by
  unfold Obligations.ParityIsEvenPopulationCount
  intro r
  refine ⟨parity_iff_ones_even r, by decide, by decide, fun h => ?_⟩
  simp [Flag.bit, logicFlags, Flag.put]

/-! ## The bus operations as the statements write them (R10, R101, R105) -/

theorem busAfter_one (b : Bus) (c d : BusCall) : (b.answered c).issued d = Spec.busAfter b [c, d] := by
  simp [Bus.answered, Bus.issued, Spec.busAfter]

theorem memRead_eq_spec (s : State) (a : Word) : s.memRead a = (s.bus.readAnswer a, Spec.afterRead s a) := by
  rw [memRead_eq, busAfter_one]
  rfl

theorem fetchOpcode_eq_spec (s : State) : s.fetchOpcode = (s.bus.fetchAnswer s.pc, Spec.afterFetch s) := by
  rw [fetchOpcode_eq, busAfter_one]
  rfl

theorem indexedAddr_eq_spec (s : State) (p : IndexReg) (d : Byte) :
    s.indexedAddr p d = Spec.ea (s.indexBase p) d := by
  rw [State.indexedAddr, sext16_toInt, Spec.ea]

theorem fetchDisplacement_eq_spec (s : State) (p : IndexReg) :
    s.fetchDisplacement p = (s.bus.readAnswer s.pc, Spec.afterDisplacement s (s.indexBase p)) := by
  rw [fetchDisplacement_eq, busAfter_one, indexedAddr_eq_spec]
  simp [Bus.issued, Spec.busAfter, Spec.afterDisplacement]

/-! ## The ALU rows (R131, R133 to R150) -/

/-- The ALU hook and the end of the instruction: the operand read, then A, F and IMODE (R107, R131). -/
theorem hookAlu_endInstr (s : State) (k : AluOp) (o : Operand) :
    (s.hookAlu k o).endInstr =
      Spec.result (s.readOperand o).2 (aluApply k (Spec.hi s.af) (s.readOperand o).1) (halfCarry s.pAndH k) := by
  rw [hookAlu_eq, mkPair_eq_specPair, logicFlags_eq_specFlags, State.a_eq, hiByte_eq_specHi]
  rfl

theorem exec_alu {i : Instr} {s : State} {k : AluOp} {o : Operand} (hi : s.descriptor? i = some (.alu k o)) :
    exec i s = .next (Spec.result (s.readOperand o).2 (aluApply k (Spec.hi s.af) (s.readOperand o).1)
      (halfCarry s.pAndH k)) := by
  rw [exec_of_descriptor hi]
  exact congrArg Host.Outcome.next (hookAlu_endInstr s k o)

/-- A row on a register slot answers A, F and IMODE, and nothing else. -/
theorem exec_alu_reg {i : Instr} {s : State} {k : AluOp} {z : Slot} {m : IndexMode} {v : Byte}
    (hi : s.descriptor? i = some (.alu k (.reg z m))) (hv : s.readSlot m z = v) :
    exec i s = .next (Spec.result s (aluApply k (Spec.hi s.af) v) (halfCarry s.pAndH k)) := by
  rw [exec_alu hi, ← hv]
  rfl

/-- A row on a memory operand is one ordinary read besides. -/
theorem exec_alu_mem {i : Instr} {s : State} {k : AluOp} {o : Operand} {a : Word}
    (hi : s.descriptor? i = some (.alu k o)) (ho : s.readOperand o = s.memRead a) :
    exec i s = .next (Spec.result (Spec.afterRead s a) (aluApply k (Spec.hi s.af) (s.bus.readAnswer a))
      (halfCarry s.pAndH k)) := by
  rw [exec_alu hi, ho, memRead_eq_spec]

/-- An indexed operand is read at its effective address (R75, R105). -/
theorem readOperand_idx (s : State) (p : IndexReg) (d : Byte) :
    s.readOperand (s.idxOperand p d) = s.memRead (Spec.ea (s.indexBase p) d) := by
  rw [← indexedAddr_eq_spec]
  rfl

/-! ### The AND rows -/

theorem exec_and_reg {i : Instr} {s : State} {z : Slot} {m : IndexMode} {v : Byte}
    (hi : s.descriptor? i = some (.alu .and (.reg z m))) (hv : s.readSlot m z = v) :
    exec i s = .next (Spec.result s (Spec.hi s.af &&& v) s.pAndH) := by
  simpa only [aluApply, halfCarry] using exec_alu_reg hi hv

theorem exec_and_mem {i : Instr} {s : State} {o : Operand} {a : Word}
    (hi : s.descriptor? i = some (.alu .and o)) (ho : s.readOperand o = s.memRead a) :
    exec i s = .next (Spec.result (Spec.afterRead s a) (Spec.hi s.af &&& s.bus.readAnswer a) s.pAndH) := by
  simpa only [aluApply, halfCarry] using exec_alu_mem hi ho

/-- Settles O14: each row is one ALU hook on a register slot. -/
theorem andRegisterResult : Obligations.AndRegisterResult := by
  unfold Obligations.AndRegisterResult
  intro s
  exact ⟨exec_and_reg rfl (hiByte_eq_specHi _), exec_and_reg rfl (loByte_eq_specLo _),
    exec_and_reg rfl (hiByte_eq_specHi _), exec_and_reg rfl (loByte_eq_specLo _),
    exec_and_reg rfl (hiByte_eq_specHi _), exec_and_reg rfl (loByte_eq_specLo _),
    exec_and_reg rfl (hiByte_eq_specHi _)⟩

/-- Settles O15: each row is one ALU hook on the slot H or L under its own mode. -/
theorem andIndexHalfResult : Obligations.AndIndexHalfResult := by
  unfold Obligations.AndIndexHalfResult
  intro s
  exact ⟨exec_and_reg rfl (hiByte_eq_specHi _), exec_and_reg rfl (loByte_eq_specLo _),
    exec_and_reg rfl (hiByte_eq_specHi _), exec_and_reg rfl (loByte_eq_specLo _)⟩

/-- Settles O16: each row is one ALU hook on a memory operand. -/
theorem andMemoryResult : Obligations.AndMemoryResult := by
  unfold Obligations.AndMemoryResult
  intro s d
  exact ⟨exec_and_mem rfl rfl, exec_and_mem rfl (readOperand_idx s .ix d), exec_and_mem rfl (readOperand_idx s .iy d)⟩

/-! ### The XOR rows -/

theorem exec_xor_reg {i : Instr} {s : State} {z : Slot} {m : IndexMode} {v : Byte}
    (hi : s.descriptor? i = some (.alu .xor (.reg z m))) (hv : s.readSlot m z = v) :
    exec i s = .next (Spec.result s (Spec.hi s.af ^^^ v) false) := by
  simpa only [aluApply, halfCarry] using exec_alu_reg hi hv

theorem exec_xor_mem {i : Instr} {s : State} {o : Operand} {a : Word}
    (hi : s.descriptor? i = some (.alu .xor o)) (ho : s.readOperand o = s.memRead a) :
    exec i s = .next (Spec.result (Spec.afterRead s a) (Spec.hi s.af ^^^ s.bus.readAnswer a) false) := by
  simpa only [aluApply, halfCarry] using exec_alu_mem hi ho

/-- Settles O17: each row is one ALU hook on a register slot. -/
theorem xorRegisterResult : Obligations.XorRegisterResult := by
  unfold Obligations.XorRegisterResult
  intro s
  exact ⟨exec_xor_reg rfl (hiByte_eq_specHi _), exec_xor_reg rfl (loByte_eq_specLo _),
    exec_xor_reg rfl (hiByte_eq_specHi _), exec_xor_reg rfl (loByte_eq_specLo _),
    exec_xor_reg rfl (hiByte_eq_specHi _), exec_xor_reg rfl (loByte_eq_specLo _),
    exec_xor_reg rfl (hiByte_eq_specHi _)⟩

/-- Settles O18: each row is one ALU hook on the slot H or L under its own mode. -/
theorem xorIndexHalfResult : Obligations.XorIndexHalfResult := by
  unfold Obligations.XorIndexHalfResult
  intro s
  exact ⟨exec_xor_reg rfl (hiByte_eq_specHi _), exec_xor_reg rfl (loByte_eq_specLo _),
    exec_xor_reg rfl (hiByte_eq_specHi _), exec_xor_reg rfl (loByte_eq_specLo _)⟩

/-- Settles O19: each row is one ALU hook on a memory operand. -/
theorem xorMemoryResult : Obligations.XorMemoryResult := by
  unfold Obligations.XorMemoryResult
  intro s d
  exact ⟨exec_xor_mem rfl rfl, exec_xor_mem rfl (readOperand_idx s .ix d), exec_xor_mem rfl (readOperand_idx s .iy d)⟩

/-! ### The OR rows -/

theorem exec_or_reg {i : Instr} {s : State} {z : Slot} {m : IndexMode} {v : Byte}
    (hi : s.descriptor? i = some (.alu .or (.reg z m))) (hv : s.readSlot m z = v) :
    exec i s = .next (Spec.result s (Spec.hi s.af ||| v) false) := by
  simpa only [aluApply, halfCarry] using exec_alu_reg hi hv

theorem exec_or_mem {i : Instr} {s : State} {o : Operand} {a : Word}
    (hi : s.descriptor? i = some (.alu .or o)) (ho : s.readOperand o = s.memRead a) :
    exec i s = .next (Spec.result (Spec.afterRead s a) (Spec.hi s.af ||| s.bus.readAnswer a) false) := by
  simpa only [aluApply, halfCarry] using exec_alu_mem hi ho

/-- Settles O20: each row is one ALU hook on a register slot. -/
theorem orRegisterResult : Obligations.OrRegisterResult := by
  unfold Obligations.OrRegisterResult
  intro s
  exact ⟨exec_or_reg rfl (hiByte_eq_specHi _), exec_or_reg rfl (loByte_eq_specLo _),
    exec_or_reg rfl (hiByte_eq_specHi _), exec_or_reg rfl (loByte_eq_specLo _),
    exec_or_reg rfl (hiByte_eq_specHi _), exec_or_reg rfl (loByte_eq_specLo _),
    exec_or_reg rfl (hiByte_eq_specHi _)⟩

/-- Settles O21: each row is one ALU hook on the slot H or L under its own mode. -/
theorem orIndexHalfResult : Obligations.OrIndexHalfResult := by
  unfold Obligations.OrIndexHalfResult
  intro s
  exact ⟨exec_or_reg rfl (hiByte_eq_specHi _), exec_or_reg rfl (loByte_eq_specLo _),
    exec_or_reg rfl (hiByte_eq_specHi _), exec_or_reg rfl (loByte_eq_specLo _)⟩

/-- Settles O22: each row is one ALU hook on a memory operand. -/
theorem orMemoryResult : Obligations.OrMemoryResult := by
  unfold Obligations.OrMemoryResult
  intro s d
  exact ⟨exec_or_mem rfl rfl, exec_or_mem rfl (readOperand_idx s .ix d), exec_or_mem rfl (readOperand_idx s .iy d)⟩

/-! ### NOP, DI and the prefixes -/

/-- Settles O13: the prefixes set IMODE, NOP's hook does nothing and DI's clears the flip-flops. -/
theorem controlInstructionsComplete : Obligations.ControlInstructionsComplete := by
  unfold Obligations.ControlInstructionsComplete
  exact fun s => ⟨exec_of_descriptor (d := .nop) rfl, exec_of_descriptor (d := .di) rfl, exec_of_prefixMode s rfl,
    exec_of_prefixMode s rfl⟩

/-! ## Algebraic laws (R152) -/

/-- After the ALU hook A is the result ... -/
theorem hookAlu_a (s : State) (k : AluOp) (o : Operand) : (s.hookAlu k o).a = aluApply k s.a (s.readOperand o).1 := by
  rw [hookAlu_eq, State.a_eq, hiByte_mkPair]

/-- ... and F the flags of it. -/
theorem hookAlu_f (s : State) (k : AluOp) (o : Operand) :
    (s.hookAlu k o).f = logicFlags (aluApply k s.a (s.readOperand o).1) (halfCarry s.pAndH k) := by
  rw [hookAlu_eq, State.f_eq, loByte_mkPair]

/-- Settles O23: A and F after the hook are functions of A and the operand byte. -/
theorem algebraicLawsOfTheLogicalGroup : Obligations.AlgebraicLawsOfTheLogicalGroup := by
  unfold Obligations.AlgebraicLawsOfTheLogicalGroup
  refine ⟨fun s o => ⟨fun hv => ?_, fun hv => ⟨?_, ?_, ?_, ?_⟩⟩, fun s => ⟨?_, ?_, ?_⟩⟩
  · rw [hookAlu_a, hv]
    exact BitVec.and_allOnes
  · rw [hookAlu_a, hv]
    exact BitVec.or_zero
  · rw [hookAlu_a, hv]
    exact BitVec.xor_zero
  · rw [hookAlu_a, hv]
    exact BitVec.and_zero
  · rw [hookAlu_f, hv, aluApply, show s.a &&& 0x00#8 = 0x00#8 from BitVec.and_zero]
    cases h : s.pAndH <;> decide
  · rw [exec_xor_reg (z := .a) (m := .direct) rfl (hiByte_eq_specHi _), State.readPair_af, BitVec.xor_self]
    rfl
  · refine ⟨_, exec_of_descriptor rfl, ?_⟩
    exact (hookAlu_a s .and (.reg .a .direct)).trans BitVec.and_self
  · refine ⟨_, exec_of_descriptor rfl, ?_⟩
    exact (hookAlu_a s .or (.reg .a .direct)).trans BitVec.or_self

end Sys2Proof.Proofs
end

section
/-! PROOFS. The family 40_pipeline.md: one step. `step_next_iff` and `step_fault_iff` say once what a step answers, in the
statements' own terms; every later fact about a step is a case analysis over `StepTo`. -/

namespace Sys2Proof.Proofs

open Sys2Proof.Machine

/-! ## The rows by their parts (R74) -/

theorem exec_aluReg (k : AluOp) (r : Slot) (m : IndexMode) (s : State) :
    exec (aluReg k r m) s = .next (s.hookAlu k (.reg r m)).endInstr := by
  cases k <;> cases r <;> cases m <;> rfl

theorem exec_aluMemHl (k : AluOp) (s : State) : exec (aluMemHl k) s = .next (s.hookAlu k .memHl).endInstr := by
  cases k <;> rfl

theorem exec_aluMemIdx (k : AluOp) (p : IndexReg) (d : Byte) (s : State) :
    exec (aluMemIdx k p d) s = .next (s.hookAlu k (s.idxOperand p d)).endInstr := by
  cases k <;> cases p <;> rfl

/-- The operation of a y field, in the second transcription (R72). -/
theorem opValue_aluCode (k : AluOp) (a v : Byte) : Spec.opValue (aluCode k) a v = aluApply k a v := by
  cases k <;> rfl

theorem halfCarry_aluCode (k : AluOp) (h : Bool) : (decide (aluCode k = 4) && h) = halfCarry h k := by
  cases k <;> rfl

/-- The register operand of a z field, in the second transcription (R73, R74). -/
theorem slotValue_slotCode (s : State) (m : IndexMode) (r : Slot) :
    Spec.slotValue s m (slotCode r) = s.readSlot m r := by
  cases r with
  | h => cases m <;> exact (hiByte_eq_specHi _).symm
  | l => cases m <;> exact (loByte_eq_specLo _).symm
  | b | d | a => exact (hiByte_eq_specHi _).symm
  | c | e => exact (loByte_eq_specLo _).symm

/-- The ALU hook and the end of the instruction, by the y field. -/
theorem hookAlu_endInstr_eq_specAlu (s : State) (k : AluOp) (o : Operand) :
    (s.hookAlu k o).endInstr = Spec.alu (s.readOperand o).2 (aluCode k) (s.readOperand o).1 := by
  obtain ⟨c, b, hs, -⟩ := readOperand_frame s o
  rw [hookAlu_endInstr, Spec.alu, opValue_aluCode, halfCarry_aluCode, hs]

/-! ## What a completed step answers -/

/-- The mode after a step that fetched `b` (R107, R182, R183). -/
def modeAfter (b : Byte) : IndexMode :=
  if b = 0xDD#8 then .indexedX else if b = 0xFD#8 then .indexedY else .direct

/-- The state after a step on the control byte `b` (R180 to R183). -/
def controlEnd (s : State) (b : Byte) : State :=
  { Spec.afterFetch s with
    iff1 := if b = 0xF3#8 then false else s.iff1
    iff2 := if b = 0xF3#8 then false else s.iff2
    imode := modeAfter b }

/-- The state in which the hook of an indexed operand is called (R101, R105). -/
def indexedState (s : State) (p : IndexReg) : State :=
  Spec.afterDisplacement (Spec.afterFetch s) (s.indexBase p)

/-- The next state of a step in Running that completes, by the byte the bus answers at PC (R100). -/
inductive StepTo (s : State) : State → Prop where
  | control (hl : Spec.listed (s.bus.fetchAnswer s.pc) = true) (ha : Spec.aluByte (s.bus.fetchAnswer s.pc) = false) :
      StepTo s (controlEnd s (s.bus.fetchAnswer s.pc))
  | register (ha : Spec.aluByte (s.bus.fetchAnswer s.pc) = true) (hz : (s.bus.fetchAnswer s.pc).toNat % 8 ≠ 6) :
      StepTo s (Spec.alu (Spec.afterFetch s) ((s.bus.fetchAnswer s.pc).toNat / 8 % 8)
        (Spec.slotValue (Spec.afterFetch s) s.imode ((s.bus.fetchAnswer s.pc).toNat % 8)))
  | memHl (ha : Spec.aluByte (s.bus.fetchAnswer s.pc) = true) (hz : (s.bus.fetchAnswer s.pc).toNat % 8 = 6)
      (hm : s.imode = .direct) :
      StepTo s (Spec.alu (Spec.afterRead (Spec.afterFetch s) s.hl) ((s.bus.fetchAnswer s.pc).toNat / 8 % 8)
        ((Spec.afterFetch s).bus.readAnswer s.hl))
  | indexed (p : IndexReg) (ha : Spec.aluByte (s.bus.fetchAnswer s.pc) = true)
      (hz : (s.bus.fetchAnswer s.pc).toNat % 8 = 6) (hm : s.imode = regMode p) :
      StepTo s (Spec.alu (Spec.afterRead (indexedState s p) (indexedState s p).memptr)
        ((s.bus.fetchAnswer s.pc).toNat / 8 % 8) ((indexedState s p).bus.readAnswer (indexedState s p).memptr))

theorem step_of_complete {s : State} {i : Instr} (hr : s.run = .running)
    (h : decodeOpcode s.imode (s.bus.fetchAnswer s.pc) = .ok (.complete i)) : step s = exec i (Spec.afterFetch s) := by
  rw [step_running hr, takeInstr_complete h, fetchOpcode_eq_spec]

theorem step_of_displaced {s : State} {k : AluOp} {p : IndexReg} (hr : s.run = .running)
    (h : decodeOpcode s.imode (s.bus.fetchAnswer s.pc) = .ok (.displaced k p)) :
    step s = exec (aluMemIdx k p ((Spec.afterFetch s).bus.readAnswer (s.pc + 1#16))) (indexedState s p) := by
  rw [step_running hr, takeInstr_displaced h, fetchOpcode_eq_spec, fetchDisplacement_eq_spec]
  cases p <;> rfl

/-- The operand of an indexed row is read at MEMPTR, which the displacement step has set (R105). -/
theorem readOperand_indexed (s : State) (p : IndexReg) :
    (indexedState s p).readOperand ((indexedState s p).idxOperand p ((Spec.afterFetch s).bus.readAnswer (s.pc + 1#16))) =
      (indexedState s p).memRead (indexedState s p).memptr := by
  rw [readOperand_idx]
  cases p <;> rfl

/-- A step in Running either completes as `StepTo` says or is the DecodeError of an unlisted byte (R100, R210). -/
theorem step_running_cases {s : State} (hr : s.run = .running) :
    (∃ t, step s = .next t ∧ StepTo s t) ∨
      (Spec.listed (s.bus.fetchAnswer s.pc) = false ∧ step s = .fault (.decodeError (s.bus.fetchAnswer s.pc) s.pc)) := by
  have hcontrol : ∀ i, decodeOpcode s.imode (s.bus.fetchAnswer s.pc) = .ok (.complete i) →
      Spec.aluByte (s.bus.fetchAnswer s.pc) = false →
      exec i (Spec.afterFetch s) = .next (controlEnd s (s.bus.fetchAnswer s.pc)) →
      ∃ t, step s = .next t ∧ StepTo s t :=
    fun i ho ha he => ⟨_, (step_of_complete hr ho).trans he, .control (listed_of_decodeOpcode ho) ha⟩
  have hk := byteKind s.imode (s.bus.fetchAnswer s.pc)
  cases ho : decodeOpcode s.imode (s.bus.fetchAnswer s.pc) with
  | error e =>
    cases ho ▸ hk with
    | unlisted hl => exact .inr ⟨hl, by rw [step_running hr, takeInstr_error ho]⟩
  | ok o =>
    left
    cases ho ▸ hk with
    | prefixDD hb | prefixFD hb | nop hb | di hb =>
      refine hcontrol _ ho (by rw [hb]; decide) ?_
      rw [hb]
      rfl
    | register k r ha hy hz =>
      refine ⟨_, ?_, .register ha (hz ▸ slotCode_ne_six r)⟩
      rw [step_of_complete hr ho, exec_aluReg, hookAlu_endInstr_eq_specAlu, hy, hz, slotValue_slotCode]
      rfl
    | memHl k ha hy hz hm =>
      refine ⟨_, ?_, .memHl ha hz hm⟩
      rw [step_of_complete hr ho, exec_aluMemHl, hookAlu_endInstr_eq_specAlu, hy, State.readOperand, memRead_eq_spec]
      rfl
    | indexed k p ha hy hz hm =>
      refine ⟨_, ?_, .indexed p ha hz hm⟩
      rw [step_of_displaced hr ho, exec_aluMemIdx, hookAlu_endInstr_eq_specAlu, hy, readOperand_indexed,
        memRead_eq_spec]

/-- The pseudocode of R100 answers what `StepTo` says. -/
theorem specStep_of_stepTo {s t : State} (hr : s.run = .running) (h : StepTo s t) : Spec.step s = .next t := by
  have hrun : s.run ≠ .halted := by rw [hr]; decide
  cases h with
  | control hl ha =>
    unfold Spec.step
    rcases byte_cases (s.bus.fetchAnswer s.pc) with hu | ha' | hb | hb | hb | hb
    · rw [hu] at hl; cases hl
    · rw [ha] at ha'; cases ha'
    all_goals
      rw [if_neg hrun, hb]
      rfl
  | register ha hz =>
    obtain ⟨hdd, hfd, hnop, hdi⟩ := aluByte_control ha
    simp only [Spec.step, hrun, hdd, hfd, hnop, hdi, ha, hz, if_true, if_false]
  | memHl ha hz hm =>
    obtain ⟨hdd, hfd, hnop, hdi⟩ := aluByte_control ha
    simp only [Spec.step, hrun, hdd, hfd, hnop, hdi, ha, hz, hm, if_true, if_false]
    rfl
  | indexed p ha hz hm =>
    obtain ⟨hdd, hfd, hnop, hdi⟩ := aluByte_control ha
    simp only [Spec.step, hrun, hdd, hfd, hnop, hdi, ha, hz, hm, if_true, if_false]
    cases p <;> rfl

theorem specStep_unlisted {s : State} (hr : s.run = .running) (hl : Spec.listed (s.bus.fetchAnswer s.pc) = false) :
    Spec.step s = .fault (.decodeError (s.bus.fetchAnswer s.pc) s.pc) := by
  have hrun : s.run ≠ .halted := by rw [hr]; decide
  simp only [Spec.listed, Bool.or_eq_false_iff, decide_eq_false_iff_not] at hl
  obtain ⟨⟨⟨⟨hnop, hdi⟩, hdd⟩, hfd⟩, ha⟩ := hl
  simp only [Spec.step, hrun, hdd, hfd, hnop, hdi, ha, if_false, Bool.false_eq_true]

/-- Settles O32: both sides answer what the fetched byte calls for. -/
theorem stepIsThePseudocode : Obligations.StepIsThePseudocode := by
  unfold Obligations.StepIsThePseudocode
  intro s
  cases hr : s.run with
  | halted => rw [step_halted hr, Spec.step, if_pos hr]
  | running =>
    rcases step_running_cases hr with ⟨t, hs, ht⟩ | ⟨hl, hs⟩
    · rw [hs, specStep_of_stepTo hr ht]
    · rw [hs, specStep_unlisted hr hl]

/-- What a step in Running that completes answers. -/
theorem step_next_iff {s t : State} (hr : s.run = .running) : step s = .next t ↔ StepTo s t := by
  constructor
  · intro h
    rcases step_running_cases hr with ⟨t', hs, ht⟩ | ⟨-, hs⟩
    · cases hs.symm.trans h
      exact ht
    · cases hs.symm.trans h
  · exact fun h => (stepIsThePseudocode s).trans (specStep_of_stepTo hr h)

/-- A step faults exactly in Running on an unlisted byte. -/
theorem step_fault_iff {s : State} {e : Fault} :
    step s = .fault e ↔ s.run = .running ∧ Spec.listed (s.bus.fetchAnswer s.pc) = false ∧
      e = .decodeError (s.bus.fetchAnswer s.pc) s.pc := by
  constructor
  · intro h
    obtain ⟨hr, -⟩ := step_fault_cases h
    rcases step_running_cases hr with ⟨t, hs, -⟩ | ⟨hl, hs⟩
    · cases hs.symm.trans h
    · cases hs.symm.trans h
      exact ⟨hr, hl, rfl⟩
  · rintro ⟨hr, hl, rfl⟩
    rw [stepIsThePseudocode s, specStep_unlisted hr hl]

theorem step_ne_refused (s : State) (r : Refusal) : step s ≠ .refused r := by
  intro h
  cases hr : s.run with
  | halted => cases (step_halted hr).symm.trans h
  | running =>
    rcases step_running_cases hr with ⟨t, hs, -⟩ | ⟨-, hs⟩ <;> cases hs.symm.trans h

/-- A step that completes: nothing in Halted, and `StepTo` in Running. -/
theorem step_next_stepTo {s t : State} (h : step s = .next t) :
    (s.run = .halted ∧ t = s) ∨ (s.run = .running ∧ StepTo s t) := by
  rcases step_next_cases h with hh | ⟨hr, -⟩
  · exact .inl hh
  · exact .inr ⟨hr, (step_next_iff hr).1 h⟩

/-- Settles O33: by what a step in Running can do. -/
theorem decodeErrorExactlyOnUnlistedBytes : Obligations.DecodeErrorExactlyOnUnlistedBytes := by
  unfold Obligations.DecodeErrorExactlyOnUnlistedBytes
  refine fun s => ⟨fun hr hl => ?_, fun e => step_fault_iff, step_ne_refused s⟩
  rcases step_running_cases hr with ⟨t, hs, -⟩ | ⟨hu, -⟩
  · exact ⟨t, hs⟩
  · rw [hl] at hu; cases hu

/-- Settles O31: the bytes given are the bytes taken. -/
theorem stepRunsTheDecodedInstruction : Obligations.StepRunsTheDecodedInstruction := by
  unfold Obligations.StepRunsTheDecodedInstruction
  have htwo : ∀ {s : State} {i : Instr} {d : Byte}, s.run = .running →
      decode s.imode [s.bus.fetchAnswer s.pc, d] = .ok (i, []) → d = (Spec.afterFetch s).bus.readAnswer (s.pc + 1#16) →
      ∃ p, s.imode = regMode p ∧ step s = exec i (indexedState s p) := by
    intro s i d hr hd hv
    rcases decode_ok_cases hd with ⟨-, hnil⟩ | ⟨k, p, d', ho, rfl, hcons⟩
    · cases hnil
    · cases hcons
      cases ho ▸ byteKind s.imode (s.bus.fetchAnswer s.pc) with
      | indexed _ _ _ _ _ hm => exact ⟨p, hm, by rw [step_of_displaced hr ho, hv]⟩
  intro s i hr
  refine ⟨fun h => ?_, fun hm h => ?_, fun hm h => ?_⟩
  · rcases decode_ok_cases h with ⟨ho, -⟩ | ⟨k, p, d, -, -, hnil⟩
    · exact step_of_complete hr ho
    · cases hnil
  · obtain ⟨p, hp, hs⟩ := htwo hr h rfl
    cases p with
    | ix => exact hs
    | iy => cases hm.symm.trans hp
  · obtain ⟨p, hp, hs⟩ := htwo hr h rfl
    cases p with
    | ix => cases hm.symm.trans hp
    | iy => exact hs

/-! ## The registers after a step -/

theorem takesDisplacement_indexed {m : IndexMode} {p : IndexReg} {b : Byte} (ha : Spec.aluByte b = true)
    (hz : b.toNat % 8 = 6) (hm : m = regMode p) : Spec.takesDisplacement m b = true :=
  takesDisplacement_eq_true_iff.2 ⟨ha, hz, hm ▸ regMode_ne_direct p⟩

theorem takesDisplacement_control {m : IndexMode} {b : Byte} (ha : Spec.aluByte b = false) :
    Spec.takesDisplacement m b = false := by
  simp [Spec.takesDisplacement, ha]

theorem takesDisplacement_register {m : IndexMode} {b : Byte} (hz : b.toNat % 8 ≠ 6) :
    Spec.takesDisplacement m b = false := by
  simp [Spec.takesDisplacement, hz]

theorem takesDisplacement_direct {m : IndexMode} {b : Byte} (hm : m = .direct) : Spec.takesDisplacement m b = false := by
  simp [Spec.takesDisplacement, hm]

theorem indexBase_of_mode {s : State} {p : IndexReg} {α : Type} (f : Word → α) (hm : s.imode = regMode p) :
    (if s.imode = .indexedX then f s.ix else f s.iy) = f (s.indexBase p) := by
  cases p with
  | ix => exact if_pos hm
  | iy => exact if_neg (by rw [hm]; decide)

theorem modeAfter_aluByte {b : Byte} (ha : Spec.aluByte b = true) : modeAfter b = .direct := by
  obtain ⟨hdd, hfd, -, -⟩ := aluByte_control ha
  simp only [modeAfter, hdd, hfd, if_false]

/-- Settles O34: PC moves once for the opcode and once for the displacement. -/
theorem stepMovesPcAndLastFetch : Obligations.StepMovesPcAndLastFetch := by
  unfold Obligations.StepMovesPcAndLastFetch
  intro s t hr h
  cases (step_next_iff hr).1 h with
  | control hl ha => rw [takesDisplacement_control ha]; exact ⟨rfl, rfl⟩
  | register ha hz => rw [takesDisplacement_register hz]; exact ⟨rfl, rfl⟩
  | memHl ha hz hm => rw [takesDisplacement_direct hm]; exact ⟨rfl, rfl⟩
  | indexed p ha hz hm =>
    rw [takesDisplacement_indexed ha hz hm]
    exact ⟨BitVec.add_assoc s.pc 1#16 1#16, rfl⟩

/-- Settles O35: an ALU byte ends in Direct, a control byte in the mode of `modeAfter`. -/
theorem indexModeAfterAStep : Obligations.IndexModeAfterAStep := by
  unfold Obligations.IndexModeAfterAStep
  intro s t hr h
  cases (step_next_iff hr).1 h with
  | control => rfl
  | register ha | memHl ha | indexed _ ha => exact (modeAfter_aluByte ha).symm

/-- Settles O36: only the displacement step writes MEMPTR. -/
theorem memptrIsTheIndexedAddress : Obligations.MemptrIsTheIndexedAddress := by
  unfold Obligations.MemptrIsTheIndexedAddress
  intro s t hr h
  simp only
  cases (step_next_iff hr).1 h with
  | control hl ha => rw [takesDisplacement_control ha]; rfl
  | register ha hz => rw [takesDisplacement_register hz]; rfl
  | memHl ha hz hm => rw [takesDisplacement_direct hm]; rfl
  | indexed p ha hz hm =>
    rw [takesDisplacement_indexed ha hz hm, if_pos rfl, indexBase_of_mode (Spec.ea · _) hm]
    rfl

/-- Settles O37: `sext_16` is the signed value, and 16-bit addition wraps. -/
theorem effectiveAddressIsSignedAndWraps : Obligations.EffectiveAddressIsSignedAndWraps := by
  unfold Obligations.EffectiveAddressIsSignedAndWraps
  have hea : ∀ (base : Word) (d : Byte), ((Spec.ea base d).toNat : Int) = ((base.toNat : Int) + d.toInt) % 65536 := by
    intro base d
    rw [Spec.ea, BitVec.toNat_add, BitVec.toNat_ofInt]
    omega
  exact fun s d => ⟨(indexedAddr_eq_spec s .ix d) ▸ hea s.ix d, (indexedAddr_eq_spec s .iy d) ▸ hea s.iy d⟩

/-- Settles O40: the opcode costs 4, the displacement and the extra step 9, the operand read 3. -/
theorem cyclesPerInstruction : Obligations.CyclesPerInstruction := by
  unfold Obligations.CyclesPerInstruction
  intro s t hr h
  cases (step_next_iff hr).1 h with
  | control hl ha => rw [takesDisplacement_control ha, ha]; rfl
  | register ha hz => rw [takesDisplacement_register hz, decide_eq_false hz, Bool.and_false]; rfl
  | memHl ha hz hm => rw [takesDisplacement_direct hm, ha, decide_eq_true hz]; rfl
  | indexed p ha hz hm => rw [takesDisplacement_indexed ha hz hm]; rfl

/-- Settles O41: the calls of the opcode fetch, the displacement step and the operand read. -/
theorem busCallsOfAStepInOrder : Obligations.BusCallsOfAStepInOrder := by
  unfold Obligations.BusCallsOfAStepInOrder
  intro s t hr h
  cases (step_next_iff hr).1 h with
  | control hl ha => rw [takesDisplacement_control ha, ha]; exact (List.append_nil _).symm
  | register ha hz =>
    rw [takesDisplacement_register hz, decide_eq_false hz, Bool.and_false]
    exact (List.append_nil _).symm
  | memHl ha hz hm => rw [takesDisplacement_direct hm, ha, decide_eq_true hz]; rfl
  | indexed p ha hz hm =>
    rw [takesDisplacement_indexed ha hz hm]
    exact List.append_assoc (s.bus.trace ++ [.fetch s.pc, .tick 4]) _ _

end Sys2Proof.Proofs
end

section
/-! PROOFS. Frames and invariants: what instructions, steps and runs keep (10_state.md R26, R32, R33, R37; 20_memory.md
R50, R55; 60_exceptions.md R211; 70_reset_and_hazards.md R247). -/

namespace Sys2Proof.Proofs

open Sys2Proof.Machine

/-! ## The frame of an instruction -/

theorem hookAlu_mem (s : State) (k : AluOp) (o : Operand) : (s.hookAlu k o).bus.mem = s.bus.mem := by
  obtain ⟨_, _, _, hk, hmem⟩ := hookAlu_frame s k o
  rw [hk]
  exact hmem

theorem runHook_mem (s : State) (d : Descriptor) : (s.runHook d).bus.mem = s.bus.mem := by
  rcases runHook_cases s d with ⟨k, o, -, hr⟩ | ⟨-, hr⟩ | ⟨-, hr⟩ <;> rw [hr]
  · exact hookAlu_mem s k o
  · rfl

/-- No instruction stores to memory (R50). -/
theorem exec_keeps_mem {i : Instr} {s t : State} (h : exec i s = .next t) : t.bus.mem = s.bus.mem := by
  rcases exec_cases i s with ⟨m, -, he⟩ | ⟨d, -, -, he⟩ <;> rw [he] at h <;> cases h
  · rfl
  · exact runHook_mem s d

theorem prefixMode?_eq (i : Instr) :
    prefixMode? i = if i = .prefixDD then some .indexedX else if i = .prefixFD then some .indexedY else none := by
  cases i with
  | prefixDD | prefixFD => rfl
  | _ => rfl

/-- IMODE ends at the mode that 0xDD or 0xFD selects, or at Direct (R107). -/
theorem exec_imode {i : Instr} {s t : State} (h : exec i s = .next t) : t.imode = (prefixMode? i).getD .direct := by
  rcases exec_cases i s with ⟨m, hm, he⟩ | ⟨d, hm, -, he⟩ <;> rw [he] at h <;> cases h <;> rw [hm] <;> rfl

/-- A row that reads no memory operand has a register operand. -/
theorem reg_of_memoryForm {i : Instr} {s : State} {k : AluOp} {o : Operand} (hi : Spec.memoryForm i = false)
    (h : s.descriptor? i = some (.alu k o)) : ∃ z m, o = .reg z m := by
  cases i with
  | andMemHl | andMemIx | andMemIy | xorMemHl | xorMemIx | xorMemIy | orMemHl | orMemIx | orMemIy => cases hi
  | nop | di | prefixDD | prefixFD => cases h
  | _ => cases h; exact ⟨_, _, rfl⟩

/-- Only a memory form touches the bus or CYCLES (R56, R108). -/
theorem exec_keeps_bus {i : Instr} {s t : State} (hi : Spec.memoryForm i = false) (h : exec i s = .next t) :
    t.bus = s.bus ∧ t.cycles = s.cycles := by
  rcases exec_cases i s with ⟨m, -, he⟩ | ⟨d, -, hd, he⟩ <;> rw [he] at h <;> cases h
  · exact ⟨rfl, rfl⟩
  · rcases runHook_cases s d with ⟨k, o, rfl, hr⟩ | ⟨-, hr⟩ | ⟨-, hr⟩ <;> rw [hr]
    · obtain ⟨z, m, rfl⟩ := reg_of_memoryForm hi hd
      rw [hookAlu_reg]
      exact ⟨rfl, rfl⟩
    · exact ⟨rfl, rfl⟩
    · exact ⟨rfl, rfl⟩

/-- The control instructions do not write AF (R180 to R183). -/
theorem exec_control_af {i : Instr} {s t : State} (hi : i = .nop ∨ i = .di ∨ i = .prefixDD ∨ i = .prefixFD)
    (h : exec i s = .next t) : t.af = s.af := by
  rcases hi with rfl | rfl | rfl | rfl <;> cases h <;> rfl

/-- Settles O27: the shape of `exec_frame`, with what each part of it may change. -/
theorem instructionFrame : Obligations.InstructionFrame := by
  unfold Obligations.InstructionFrame
  intro i s t h
  have hmem := exec_keeps_mem h
  have himode : t.imode = (if i = .prefixDD then .indexedX else if i = .prefixFD then .indexedY else .direct) := by
    rw [exec_imode h, prefixMode?_eq]
    split_ifs <;> rfl
  have haf := fun hi => exec_control_af (i := i) hi h
  have hbus := fun hi => exec_keeps_bus (i := i) hi h
  obtain ⟨_, _, _, _, _, _, rfl, hiff⟩ := exec_frame h
  exact ⟨rfl, rfl, rfl, rfl, rfl, rfl, rfl, rfl, rfl, rfl, hiff, haf, himode, fun a => congrArg (·.byte? a) hmem, hbus⟩

/-- Settles O28: in every completed step the general registers and memory are those before it. -/
theorem stepWritesNoGeneralRegisterButAF : Obligations.StepWritesNoGeneralRegisterButAF := by
  unfold Obligations.StepWritesNoGeneralRegisterButAF
  intro s t h
  rcases step_next_stepTo h with ⟨-, rfl⟩ | ⟨-, ht⟩
  · exact ⟨rfl, rfl, rfl, rfl, rfl, rfl, fun _ => rfl, fun _ => rfl⟩
  · cases ht with
    | control => exact ⟨rfl, rfl, rfl, rfl, rfl, rfl, fun _ => rfl, fun _ => rfl⟩
    | register ha | memHl ha | indexed _ ha =>
      exact ⟨rfl, rfl, rfl, rfl, rfl, rfl, fun _ => rfl, fun hf => by rw [ha] at hf; cases hf⟩

/-! ## P_AND_H (R131, D18) -/

theorem specFlags_getLsbD (r : Byte) (h h' : Bool) {j : Nat} (hj : j ≠ 4) :
    (Spec.flags r h').getLsbD j = (Spec.flags r h).getLsbD j := by
  have hbit : ∀ x : Bool, (if x then 0x10#8 else 0x00#8).getLsbD j = false := by
    intro x
    cases x with
    | false => exact BitVec.getLsbD_zero
    | true =>
      rw [if_pos rfl, show (0x10#8) = BitVec.twoPow 8 4 from rfl, BitVec.getLsbD_twoPow]
      simp [hj.symm]
  simp only [Spec.flags, BitVec.getLsbD_or, hbit]

/-- The end of an ALU instruction shows P_AND_H in bit 4 of F alone, and only for y = 4. -/
theorem specAlu_pAndH (u : State) (h : Bool) (y : Nat) (v : Byte) :
    (Spec.alu { u with pAndH := h } y v).toProcessor =
        { (Spec.alu u y v).toProcessor with af := (Spec.alu { u with pAndH := h } y v).af } ∧
      (Spec.alu { u with pAndH := h } y v).a = (Spec.alu u y v).a ∧
      (∀ j, j ≠ 4 → (Spec.alu { u with pAndH := h } y v).f.getLsbD j = (Spec.alu u y v).f.getLsbD j) ∧
      (y ≠ 4 → (Spec.alu { u with pAndH := h } y v).af = (Spec.alu u y v).af) := by
  refine ⟨rfl, ?_, fun j hj => ?_, fun hy => ?_⟩
  · simp only [State.a_eq, Spec.alu, Spec.result, ← mkPair_eq_specPair, hiByte_mkPair]
  · simp only [State.f_eq, Spec.alu, Spec.result, ← mkPair_eq_specPair, loByte_mkPair]
    exact specFlags_getLsbD _ _ _ hj
  · simp only [Spec.alu, Spec.result, hy, decide_false, Bool.false_and]

/-- Settles O26: with the other parameter the step takes the same course, and only the ALU hook's flags read it. -/
theorem halfCarryParameterTouchesOnlyH : Obligations.HalfCarryParameterTouchesOnlyH := by
  unfold Obligations.HalfCarryParameterTouchesOnlyH
  intro s t h hs
  rcases step_next_stepTo hs with ⟨hr, rfl⟩ | ⟨hr, ht⟩
  · exact ⟨_, step_halted (s := { t with pAndH := h }) hr, rfl, rfl, fun _ _ => rfl, fun _ => rfl⟩
  have hstep : ∀ {t'}, StepTo { s with pAndH := h } t' → step { s with pAndH := h } = .next t' :=
    (step_next_iff (s := { s with pAndH := h }) hr).2
  cases ht with
  | control hl ha => exact ⟨_, hstep (.control hl ha), rfl, rfl, fun _ _ => rfl, fun _ => rfl⟩
  | register ha hz =>
    obtain ⟨hp, hA, hF, haf⟩ := specAlu_pAndH (Spec.afterFetch s) h ((s.bus.fetchAnswer s.pc).toNat / 8 % 8)
      (Spec.slotValue (Spec.afterFetch s) s.imode ((s.bus.fetchAnswer s.pc).toNat % 8))
    exact ⟨_, hstep (.register ha hz), hp, hA, hF, fun hn => haf fun hy => hn ⟨hr, ha, hy⟩⟩
  | memHl ha hz hm =>
    obtain ⟨hp, hA, hF, haf⟩ := specAlu_pAndH (Spec.afterRead (Spec.afterFetch s) s.hl) h
      ((s.bus.fetchAnswer s.pc).toNat / 8 % 8) ((Spec.afterFetch s).bus.readAnswer s.hl)
    exact ⟨_, hstep (.memHl ha hz hm), hp, hA, hF, fun hn => haf fun hy => hn ⟨hr, ha, hy⟩⟩
  | indexed p ha hz hm =>
    obtain ⟨hp, hA, hF, haf⟩ := specAlu_pAndH (Spec.afterRead (indexedState s p) (indexedState s p).memptr) h
      ((s.bus.fetchAnswer s.pc).toNat / 8 % 8) ((indexedState s p).bus.readAnswer (indexedState s p).memptr)
    have hi : indexedState { s with pAndH := h } p = { indexedState s p with pAndH := h } := by cases p <;> rfl
    have hx := hstep (.indexed p ha hz hm)
    rw [hi] at hx
    exact ⟨_, hx, hp, hA, hF, fun hn => haf fun hy => hn ⟨hr, ha, hy⟩⟩

/-! ## MEMPTR (R33) -/

theorem readOperand_setMemptr (s : State) (x : Word) (o : Operand) :
    (s.setMemptr x).readOperand o = ((s.readOperand o).1, (s.readOperand o).2.setMemptr x) := by
  cases o with
  | memHl => rfl
  | memIdx p d ea => rfl
  | reg z m => cases z <;> cases m <;> rfl

theorem hookAlu_setMemptr (s : State) (x : Word) (k : AluOp) (o : Operand) :
    (s.setMemptr x).hookAlu k o = (s.hookAlu k o).setMemptr x := by
  rw [hookAlu_eq, hookAlu_eq, readOperand_setMemptr]
  rfl

theorem unread_setMemptr (x : Word) : Unread (State.setMemptr · x) where
  run _ := rfl
  pc _ := rfl
  imode _ := rfl
  bus _ := rfl
  ix _ := rfl
  iy _ := rfl
  setImode _ _ := rfl
  fetchOpcode _ := rfl
  fetchDisplacement _ p := .inl (by cases p <;> rfl)
  runHook s d := by
    cases d with
    | alu k o => exact .inr (hookAlu_setMemptr s x k o)
    | nop => exact .inr rfl
    | di => exact .inr rfl

/-- Settles O30: nothing in a step reads MEMPTR; the displacement step writes it. -/
theorem noStepReadsMemptr : Obligations.NoStepReadsMemptr := by
  unfold Obligations.NoStepReadsMemptr
  exact fun _ x => ⟨fun _ h => (unread_setMemptr x).step_next h, fun _ h => (unread_setMemptr x).step_fault h⟩

/-! ## Halted (R109, R247) -/

theorem run_halted (k : Nat) {s : State} (h : s.run = .halted) : run k s = .next s := by
  induction k with
  | zero => rfl
  | succ k ih => rw [run_succ_next (step_halted h), ih]

/-- A run that ends in Halted goes on in that state. -/
theorem run_add_of_haltedEnd {k : Nat} (j : Nat) {s t : State} (h : HaltedEnd k s t) : run (k + j) s = .next t := by
  obtain ⟨hk, hr⟩ := h
  induction k generalizing s with
  | zero =>
    cases hk
    exact run_halted _ hr
  | succ k ih =>
    obtain ⟨u, hu, hk⟩ := run_succ_cases hk
    rw [Nat.add_right_comm, run_succ_next hu, ih hk]

theorem step_keeps_run {s t : State} (h : step s = .next t) : t.run = s.run := by
  rcases step_next_stepTo h with ⟨-, rfl⟩ | ⟨-, ht⟩
  · rfl
  · cases ht <;> rfl

/-- Settles O38: by induction on the number of steps. -/
theorem haltedIsFinalAndNeverEntered : Obligations.HaltedIsFinalAndNeverEntered := by
  unfold Obligations.HaltedIsFinalAndNeverEntered
  exact ⟨fun k _ h => run_halted k h, fun _ j _ _ h => run_add_of_haltedEnd j h,
    fun k s t h => run_induction (P := fun u => u.run = s.run)
      (fun _ _ hu hstep => (step_keeps_run hstep).trans hu) k s t rfl h⟩

/-! ## The calls of a step, and the invariant (R35, R37, R50, R51) -/

/-- A completed step adds calls to the record that only fetch, read and tick; CYCLES grows by their ticks, LAST_FETCH
is the last of their fetches, and memory is as before. -/
theorem step_calls {s t : State} (h : step s = .next t) :
    ∃ cs, t.bus.trace = s.bus.trace ++ cs ∧ t.cycles = s.cycles + tickSum cs ∧
      t.lastFetch = (lastFetchOf cs).getD s.lastFetch ∧ (∀ c ∈ cs, c.readOnly = true) ∧ t.bus.mem = s.bus.mem := by
  rcases step_next_stepTo h with ⟨-, rfl⟩ | ⟨-, ht⟩
  · exact ⟨[], (List.append_nil _).symm, rfl, rfl, by simp, rfl⟩
  · cases ht with
    | control => exact ⟨_, rfl, rfl, rfl, by simp [BusCall.readOnly], rfl⟩
    | register => exact ⟨_, rfl, rfl, rfl, by simp [BusCall.readOnly], rfl⟩
    | memHl => exact ⟨_, List.append_assoc .., rfl, rfl, by simp [BusCall.readOnly], rfl⟩
    | indexed p =>
      exact ⟨_, (List.append_assoc ..).trans (List.append_assoc ..), rfl, rfl, by simp [BusCall.readOnly], rfl⟩

/-- Settles O47: the invariant of the calls before the step and of the step's own. -/
theorem stepKeepsTheInvariant : Obligations.StepKeepsTheInvariant := by
  unfold Obligations.StepKeepsTheInvariant
  intro s t hs h
  obtain ⟨hmem, hcycles, hlast, hro⟩ := hs
  obtain ⟨cs, htrace, hc, hl, hcs, hm⟩ := step_calls h
  refine ⟨hm ▸ hmem, ?_, fun a ha => ?_, fun c hc => ?_⟩
  · rw [htrace, tickSum_append, hc, hcycles]
  · rw [htrace, lastFetchOf_append] at ha
    cases hf : lastFetchOf cs with
    | none =>
      rw [hf, Option.none_or] at ha
      rw [hl, hf]
      exact hlast a ha
    | some b =>
      rw [hf, Option.some_or] at ha
      rw [hl, hf]
      exact Option.some.inj ha
  · rw [htrace, List.mem_append] at hc
    exact hc.elim (hro c) (hcs c)

/-- A construction on a canonical bus with an empty record. -/
theorem inv_construct {init : Init} {h : Bool} {b : Bus} (hb : b.mem.wf) (ht : b.trace = []) :
    (State.construct init h b).Inv where
  memory := hb
  cycles := by rw [State.construct_bus, ht]; rfl
  lastFetch a ha := by rw [State.construct_bus, ht] at ha; cases ha
  readOnly c hc := by rw [State.construct_bus, ht] at hc; cases hc

/-- Settles O46: reset and an external reset are constructions on a bus with an empty record. -/
theorem invariantHoldsAtConstruction : Obligations.InvariantHoldsAtConstruction := by
  unfold Obligations.InvariantHoldsAtConstruction
  exact ⟨inv_construct reset_mem_wf rfl, fun _ _ _ hb ht => inv_construct hb ht,
    fun _ _ hs => inv_construct hs.memory rfl⟩

/-! ## Bus operations and their costs (R55, R108) -/

/-- The ALU hook performs the operand read at most. -/
theorem hookAlu_operations (s : State) (k : AluOp) (o : Operand) :
    ∃ ops : List Spec.Operation, (∀ x ∈ ops, ∃ a, x = .read a) ∧
      (s.hookAlu k o).bus.trace = s.bus.trace ++ ops.flatMap Spec.Operation.calls ∧
      (s.hookAlu k o).cycles = s.cycles + (ops.map Spec.Operation.cost).sum := by
  rw [hookAlu_eq]
  rcases readOperand_cases s o with hr | ⟨a, hr⟩ <;> rw [hr]
  · exact ⟨[], by simp, (List.append_nil _).symm, rfl⟩
  · refine ⟨[.read a], by simp, ?_, rfl⟩
    rw [memRead_eq_spec]
    rfl

/-- Settles O39: the operations of a step are the fetch, the displacement's long read and extra step, and the operand
read. -/
theorem cyclesAreTheBusCosts : Obligations.CyclesAreTheBusCosts := by
  unfold Obligations.CyclesAreTheBusCosts
  refine ⟨fun s t h => ?_, fun s d => ?_⟩
  · rcases step_next_stepTo h with ⟨hr, rfl⟩ | ⟨hr, ht⟩
    · exact ⟨[], (List.append_nil _).symm, rfl, by simp, by simp [hr]⟩
    · cases ht with
      | control hl ha => exact ⟨[.fetch s.pc], rfl, rfl, by simp, by simp [takesDisplacement_control ha]⟩
      | register ha hz => exact ⟨[.fetch s.pc], rfl, rfl, by simp, by simp [takesDisplacement_register hz]⟩
      | memHl ha hz hm =>
        exact ⟨[.fetch s.pc, .read s.hl], List.append_assoc .., rfl, by simp, by simp [takesDisplacement_direct hm]⟩
      | indexed p ha hz hm =>
        have htd := takesDisplacement_indexed ha hz hm
        exact ⟨[.fetch s.pc, .longRead (s.pc + 1#16), .extra, .read (indexedState s p).memptr],
          (List.append_assoc ..).trans (List.append_assoc ..), rfl, by simp [htd], by simp [hr, htd]⟩
  · rcases runHook_cases s d with ⟨k, o, -, hr⟩ | ⟨-, hr⟩ | ⟨-, hr⟩ <;> rw [hr]
    · exact hookAlu_operations s k o
    · exact ⟨[], by simp, (List.append_nil _).symm, rfl⟩
    · exact ⟨[], by simp, (List.append_nil _).symm, rfl⟩

/-! ## Faults (R101, R211) -/

/-- A byte with no entry has been fetched and charged when the decode path ends. -/
theorem takenBus_of_takeInstr_error {s : State} {e : Fault} {b : Bus} (h : s.takeInstr = .error (e, b)) :
    s.takenBus = Spec.busAfter s.bus [.fetch s.pc, .tick 4] := by
  cases ho : decodeOpcode s.imode (s.bus.fetchAnswer s.pc) with
  | error r => rw [takenBus_error ho, fetchOpcode_eq_spec]; rfl
  | ok o =>
    cases o with
    | complete i => rw [takeInstr_complete ho] at h; cases h
    | displaced k p => rw [takeInstr_displaced ho] at h; cases h

theorem busAfterStep_of_fault {s : State} {e : Fault} (h : step s = .fault e) :
    busAfterStep s = Spec.busAfter s.bus [.fetch s.pc, .tick 4] := by
  obtain ⟨-, b, hb⟩ := step_fault_cases h
  rw [busAfterStep_fault h, takenBus_of_takeInstr_error hb]

/-- The disassembler faults only in the decode path. -/
theorem disasmStep_fault_iff {s : State} {out : List String} {e : Fault} :
    disasmStep { engine := s, output := out } = .fault e ↔ s.run = .running ∧ ∃ b, s.takeInstr = .error (e, b) := by
  cases hr : s.run with
  | halted => simp [disasmStep, hr]
  | running =>
    cases ht : s.takeInstr with
    | error p => simp [disasmStep, hr, ht, Prod.ext_iff]
    | ok p => cases hm : prefixMode? p.1 <;> simp [disasmStep, hr, ht, hm]

/-- Settles O55: under both backends the decode path ends after the fetch. -/
theorem faultingStepHasFetchedAndCharged : Obligations.FaultingStepHasFetchedAndCharged := by
  unfold Obligations.FaultingStepHasFetchedAndCharged
  refine ⟨fun s e h => ⟨(step_fault_iff.1 h).2.2, busAfterStep_of_fault h⟩, fun s out e h => ?_,
    fun _ _ h => busAfterStep_next h⟩
  obtain ⟨-, b, hb⟩ := disasmStep_fault_iff.1 h
  exact takenBus_of_takeInstr_error hb

/-- The bus at a fault end: calls that only fetch, read and tick, then the fetch of the recorded address. -/
theorem runBus_of_faultEnd {k : Nat} {s : State} {opcode : Byte} {address : Word}
    (h : FaultEnd k s (.decodeError opcode address)) :
    (∃ cs, (runBus k s).trace = s.bus.trace ++ cs ++ [.fetch address, .tick 4] ∧ ∀ c ∈ cs, c.readOnly = true) ∧
      (runBus k s).mem = s.bus.mem := by
  unfold FaultEnd at h
  induction k generalizing s with
  | zero => cases h
  | succ k ih =>
    cases hs : step s with
    | next u =>
      rw [run_succ_next hs] at h
      obtain ⟨⟨cs', htrace', hcs'⟩, hmem'⟩ := ih h
      obtain ⟨cs, htrace, -, -, hcs, hmem⟩ := step_calls hs
      rw [runBus_succ_next hs]
      refine ⟨⟨cs ++ cs', ?_, fun c hc => ?_⟩, hmem'.trans hmem⟩
      · rw [htrace', htrace, List.append_assoc s.bus.trace]
      · exact (List.mem_append.1 hc).elim (hcs c) (hcs' c)
    | fault e =>
      rw [run_succ_fault hs] at h
      cases h
      cases (step_fault_iff.1 hs).2.2
      rw [runBus_succ_fault hs, busAfterStep_of_fault hs]
      exact ⟨⟨[], by rw [List.append_nil]; rfl, by simp⟩, rfl⟩
    | refused r => exact absurd hs (step_ne_refused s r)

theorem runBus_of_normalEnd {k : Nat} {s t : State} (h : NormalEnd k s t) : runBus k s = t.bus := by
  unfold NormalEnd at h
  induction k generalizing s with
  | zero => cases h; rfl
  | succ k ih =>
    obtain ⟨u, hu, hk⟩ := run_succ_cases h
    rw [runBus_succ_next hu, ih hk]

/-- Settles O56: by induction on the number of steps. -/
theorem faultEndSawTheFetchOfItsRecord : Obligations.FaultEndSawTheFetchOfItsRecord := by
  unfold Obligations.FaultEndSawTheFetchOfItsRecord
  refine ⟨fun k s opcode address h => ?_, fun _ _ _ h => runBus_of_normalEnd h⟩
  obtain ⟨htrace, hmem⟩ := runBus_of_faultEnd h
  exact ⟨htrace, fun a => congrArg (·.byte? a) hmem⟩

end Sys2Proof.Proofs
end

section
/-! PROOFS. The collaborator: what FlatBus answers (20_memory.md R53), the canonical form of memory (log 3), and that a run
depends on the bus through the bytes it answers alone (R64). -/

namespace Sys2Proof.Proofs

open Sys2Proof.Machine

/-! ## FlatBus and the canonical form (R53, log 3) -/

/-- Under FlatBus memory holds a byte at every address. -/
theorem byte?_isSome {m : Memory} (h : m.fill.isSome = true) (a : Word) : ∃ v, m.byte? a = some v := by
  obtain ⟨f, hf⟩ := Option.isSome_iff_exists.1 h
  unfold Memory.byte? Memory.unlisted
  cases findCell m.cells a.toNat with
  | some v => exact ⟨v, rfl⟩
  | none => exact ⟨f, hf⟩

/-- With no scripted answer `fetch` and `read` both answer the byte that memory holds. -/
theorem answers_of_byte? {b : Bus} {a : Word} {v : Byte} (hs : b.answers = []) (hv : b.mem.byte? a = some v) :
    b.fetchAnswer a = v ∧ b.readAnswer a = v := by
  simp only [Bus.fetchAnswer, Bus.readAnswer, hs, hv, Option.getD_some, and_self]

/-- Settles O42: FlatBus answers from memory, where a write is read at its address only. -/
theorem flatBusAnswersWhatWasWritten : Obligations.FlatBusAnswersWhatWasWritten := by
  unfold Obligations.FlatBusAnswersWhatWasWritten
  intro s a b v p q hs hf
  obtain ⟨x, hx⟩ := byte?_isSome hf a
  obtain ⟨y, hy⟩ := byte?_isSome hf b
  obtain ⟨hfa, hra⟩ := answers_of_byte? hs hx
  obtain ⟨hfb, hrb⟩ := answers_of_byte? hs hy
  have hw : (s.memWrite a v).bus.mem.byte? b = some (if b = a then v else y) := by
    rw [State.memWrite_bus, byte?_write, hy]
    split_ifs <;> rfl
  obtain ⟨hfw, hrw⟩ := answers_of_byte? (b := (s.memWrite a v).bus) hs hw
  refine ⟨by rw [hfa, hx], by rw [hfa, hra], by rw [hrw, hrb], by rw [hfw, hfb], ?_, rfl⟩
  simp [State.portIn, Bus.inputAnswer, hs, hf]

/-- In a list with rising addresses a cell is what is found at its address. -/
theorem findCell_eq_some_iff {cs : List Host.Cell} (h : cs.Pairwise (fun c d => c.1 < d.1)) (a : Nat) (v : Byte) :
    findCell cs a = some v ↔ (a, v) ∈ cs := by
  induction cs with
  | nil => simp [findCell]
  | cons c cs ih =>
    rw [List.pairwise_cons] at h
    obtain ⟨hc, hcs⟩ := h
    rw [findCell, List.mem_cons]
    split_ifs with hca
    · have hnot : (a, v) ∉ cs := fun hm => absurd (hc _ hm) (by simp [hca])
      simp [hnot, Prod.ext_iff, hca, eq_comm]
    · have hne : (a, v) ≠ c := fun e => hca (e ▸ rfl)
      simp [hne, ih hcs]

/-- A canonical memory lists a byte exactly where it reads something other than the unlisted reading. -/
theorem mem_cells_iff {m : Memory} (h : m.wf) (a : Word) (v : Byte) :
    (a.toNat, v) ∈ m.cells ↔ m.byte? a = some v ∧ some v ≠ m.unlisted := by
  obtain ⟨hr, -, hf⟩ := h
  rw [← findCell_eq_some_iff hr, Memory.byte?]
  cases hc : findCell m.cells a.toNat with
  | none =>
    simp only [reduceCtorEq, false_iff, not_and, not_not]
    exact fun hu => hu.symm
  | some w =>
    have hw : some w ≠ m.unlisted := hf _ ((findCell_eq_some_iff hr _ _).1 hc)
    constructor
    · rintro ⟨⟩
      exact ⟨rfl, hw⟩
    · exact And.left

/-- Settles O43: rising lists with the same cells are equal. -/
theorem canonicalMemoriesThatReadAlikeAreEqual : Obligations.CanonicalMemoriesThatReadAlikeAreEqual := by
  unfold Obligations.CanonicalMemoriesThatReadAlikeAreEqual
  intro m m' h h' hu hread
  have hmem : ∀ c : Host.Cell, c.1 < 65536 → (c ∈ m.cells ↔ c ∈ m'.cells) := by
    intro c hlt
    have hc : c = ((BitVec.ofNat 16 c.1).toNat, c.2) :=
      Prod.ext (by rw [BitVec.toNat_ofNat, Nat.mod_eq_of_lt hlt]) rfl
    rw [hc, mem_cells_iff h, mem_cells_iff h', hread, hu]
  have hcells : m.cells = m'.cells := by
    have : Std.Irrefl (fun c d : Host.Cell => c.1 < d.1) := ⟨fun c => Nat.lt_irrefl c.1⟩
    have : Std.Antisymm (fun c d : Host.Cell => c.1 < d.1) := ⟨fun c d hcd hdc => absurd hcd (Nat.lt_asymm hdc)⟩
    refine List.Pairwise.eq_of_mem_iff h.1 h'.1 fun c => ⟨fun hc => ?_, fun hc => ?_⟩
    · exact (hmem c (h.2.1 c hc)).1 hc
    · exact (hmem c (h'.2.1 c hc)).2 hc
  cases m
  cases m'
  cases hcells
  cases hu
  rfl

/-! ## One processor record under two collaborators (R64) -/

/-- Two machines with one processor record and parameter, whatever their collaborators hold. -/
structure Agree (s s' : State) : Prop where
  processor : s.toProcessor = s'.toProcessor
  pAndH : s.pAndH = s'.pAndH

namespace Agree

variable {s s' : State}

theorem mk_bus (s : State) (b : Bus) : Agree s { s with bus := b } := ⟨rfl, rfl⟩

theorem eq_bus (h : Agree s s') : s' = { s with bus := s'.bus } := by
  obtain ⟨hp, hh⟩ := h
  cases s
  cases s'
  cases hp
  cases hh
  rfl

theorem alu (h : Agree s s') (y : Nat) (v : Byte) : Agree (Spec.alu s y v) (Spec.alu s' y v) := by
  rw [h.eq_bus]
  exact ⟨rfl, rfl⟩

theorem afterRead (h : Agree s s') (a : Word) : Agree (Spec.afterRead s a) (Spec.afterRead s' a) := by
  rw [h.eq_bus]
  exact ⟨rfl, rfl⟩

theorem afterFetch (h : Agree s s') : Agree (Spec.afterFetch s) (Spec.afterFetch s') := by
  rw [h.eq_bus]
  exact ⟨rfl, rfl⟩

theorem controlEnd (h : Agree s s') (b : Byte) : Agree (controlEnd s b) (controlEnd s' b) := by
  rw [h.eq_bus]
  exact ⟨rfl, rfl⟩

theorem indexBase (h : Agree s s') (p : IndexReg) : s.indexBase p = s'.indexBase p := by
  rw [h.eq_bus]
  cases p <;> rfl

theorem slotValue (h : Agree s s') (m : IndexMode) (z : Nat) : Spec.slotValue s m z = Spec.slotValue s' m z := by
  rw [h.eq_bus]
  rfl

theorem afterDisplacement (h : Agree s s') (hd : s.bus.readAnswer s.pc = s'.bus.readAnswer s'.pc) (base : Word) :
    Agree (Spec.afterDisplacement s base) (Spec.afterDisplacement s' base) := by
  unfold Spec.afterDisplacement
  rw [hd]
  rw [h.eq_bus]
  exact ⟨rfl, rfl⟩

end Agree

/-! ## The bytes answered in a step -/

theorem answersOfStep_halted {s : State} (hr : s.run = .halted) : Spec.answersOfStep s = [] := if_pos hr

/-- The base that a displacement is added to under the state's mode (R105). -/
def modeBase (s : State) : Word := if s.imode = .indexedX then s.ix else s.iy

theorem modeBase_of_mode {s : State} {p : IndexReg} (hm : s.imode = regMode p) : modeBase s = s.indexBase p :=
  indexBase_of_mode (fun w => w) hm

theorem answersOfStep_running {s : State} (hr : s.run = .running) :
    Spec.answersOfStep s = s.bus.fetchAnswer s.pc ::
      (if Spec.takesDisplacement s.imode (s.bus.fetchAnswer s.pc) then
        [(Spec.afterFetch s).bus.readAnswer (s.pc + 1#16),
          (Spec.afterDisplacement (Spec.afterFetch s) (modeBase s)).bus.readAnswer
            (Spec.afterDisplacement (Spec.afterFetch s) (modeBase s)).memptr]
      else if Spec.aluByte (s.bus.fetchAnswer s.pc) && (s.bus.fetchAnswer s.pc).toNat % 8 = 6 then
        [(Spec.afterFetch s).bus.readAnswer s.hl]
      else []) :=
  if_neg (by rw [hr]; decide)

theorem answersOfStep_memHl {s : State} (hr : s.run = .running) (ha : Spec.aluByte (s.bus.fetchAnswer s.pc) = true)
    (hz : (s.bus.fetchAnswer s.pc).toNat % 8 = 6) (hm : s.imode = .direct) :
    Spec.answersOfStep s = [s.bus.fetchAnswer s.pc, (Spec.afterFetch s).bus.readAnswer s.hl] := by
  rw [answersOfStep_running hr, takesDisplacement_direct hm, ha, decide_eq_true hz]
  rfl

theorem answersOfStep_indexed {s : State} {p : IndexReg} (hr : s.run = .running)
    (ha : Spec.aluByte (s.bus.fetchAnswer s.pc) = true) (hz : (s.bus.fetchAnswer s.pc).toNat % 8 = 6)
    (hm : s.imode = regMode p) :
    Spec.answersOfStep s = [s.bus.fetchAnswer s.pc, (Spec.afterFetch s).bus.readAnswer (s.pc + 1#16),
      (indexedState s p).bus.readAnswer (indexedState s p).memptr] := by
  rw [answersOfStep_running hr, takesDisplacement_indexed ha hz hm, modeBase_of_mode hm]
  rfl

theorem answersOfStep_length_le (s : State) : (Spec.answersOfStep s).length ≤ 3 := by
  cases hr : s.run with
  | halted => simp [answersOfStep_halted hr]
  | running =>
    rw [answersOfStep_running hr, List.length_cons]
    split_ifs <;> simp

/-- A step takes its answers off the script (R53). -/
theorem step_answers {s t : State} (h : step s = .next t) :
    t.bus.answers = s.bus.answers.drop (Spec.answersOfStep s).length := by
  rcases step_next_stepTo h with ⟨hr, rfl⟩ | ⟨hr, ht⟩
  · rw [answersOfStep_halted hr]
    rfl
  · cases ht with
    | control hl ha =>
      rw [answersOfStep_running hr, takesDisplacement_control ha, ha]
      rfl
    | register ha hz =>
      rw [answersOfStep_running hr, takesDisplacement_register hz, decide_eq_false hz, Bool.and_false]
      rfl
    | memHl ha hz hm =>
      rw [answersOfStep_memHl hr ha hz hm]
      exact List.drop_drop
    | indexed p ha hz hm =>
      rw [answersOfStep_indexed hr ha hz hm]
      exact (congrArg (List.drop 1) List.drop_drop).trans List.drop_drop

/-- Two machines that agree and receive the same bytes in a step do the same. -/
theorem step_of_agree {s s' : State} (h : Agree s s') (ha : Spec.answersOfStep s = Spec.answersOfStep s') :
    (∃ t t', step s = .next t ∧ step s' = .next t' ∧ Agree t t') ∨ ∃ e, step s = .fault e ∧ step s' = .fault e := by
  have hrun : s'.run = s.run := congrArg Processor.run h.processor.symm
  have hpc : s'.pc = s.pc := congrArg Processor.pc h.processor.symm
  have himode : s'.imode = s.imode := congrArg Processor.imode h.processor.symm
  have hhl : s'.hl = s.hl := congrArg Processor.hl h.processor.symm
  cases hr : s.run with
  | halted => exact .inl ⟨s, s', step_halted hr, step_halted (hrun.trans hr), h⟩
  | running =>
    have hr' : s'.run = .running := hrun.trans hr
    have hb : s'.bus.fetchAnswer s'.pc = s.bus.fetchAnswer s.pc := by
      rw [answersOfStep_running hr, answersOfStep_running hr'] at ha
      exact (List.cons.inj ha).1.symm
    have hstep := fun t' => (step_next_iff (t := t') hr').2
    rcases step_running_cases hr with ⟨t, hs, ht⟩ | ⟨hl, hs⟩
    · refine .inl ⟨t, ?_⟩
      cases ht with
      | control hl hc =>
        refine ⟨_, hs, hstep _ (.control (hb ▸ hl) (hb ▸ hc)), ?_⟩
        rw [hb]
        exact h.controlEnd _
      | register hc hz =>
        refine ⟨_, hs, hstep _ (.register (hb ▸ hc) (hb ▸ hz)), ?_⟩
        rw [hb, himode, h.afterFetch.slotValue]
        exact h.afterFetch.alu _ _
      | memHl hc hz hm =>
        refine ⟨_, hs, hstep _ (.memHl (hb ▸ hc) (hb ▸ hz) (himode.trans hm)), ?_⟩
        rw [answersOfStep_memHl hr hc hz hm, answersOfStep_memHl hr' (hb ▸ hc) (hb ▸ hz) (himode.trans hm)] at ha
        simp only [List.cons.injEq, and_true] at ha
        rw [hb, ← ha.2, hhl]
        exact (h.afterFetch.afterRead _).alu _ _
      | indexed p hc hz hm =>
        refine ⟨_, hs, hstep _ (.indexed p (hb ▸ hc) (hb ▸ hz) (himode.trans hm)), ?_⟩
        rw [answersOfStep_indexed hr hc hz hm, answersOfStep_indexed hr' (hb ▸ hc) (hb ▸ hz) (himode.trans hm)] at ha
        simp only [List.cons.injEq, and_true] at ha
        obtain ⟨-, hd, hv⟩ := ha
        have hi : Agree (indexedState s p) (indexedState s' p) := by
          unfold indexedState
          rw [← h.indexBase p]
          exact h.afterFetch.afterDisplacement hd _
        rw [hb, ← hv, ← congrArg Processor.memptr hi.processor]
        exact (hi.afterRead _).alu _ _
    · refine .inr ⟨_, hs, step_fault_iff.2 ⟨hr', hb ▸ hl, ?_⟩⟩
      rw [hb, hpc]

/-! ## Runs under answers received (R64) -/

/-- How many bytes a step receives is fixed by the processor record and the first of them. -/
theorem answersOfStep_eq_of_append {s s' : State} {l l' : List Byte} (h : Agree s s')
    (ha : Spec.answersOfStep s ++ l = Spec.answersOfStep s' ++ l') : Spec.answersOfStep s = Spec.answersOfStep s' := by
  refine List.append_inj_left ha ?_
  have hrun : s'.run = s.run := congrArg Processor.run h.processor.symm
  have himode : s'.imode = s.imode := congrArg Processor.imode h.processor.symm
  cases hr : s.run with
  | halted => rw [answersOfStep_halted hr, answersOfStep_halted (hrun.trans hr)]
  | running =>
    rw [answersOfStep_running hr, answersOfStep_running (hrun.trans hr)] at ha ⊢
    have hb := (List.cons.inj ha).1
    rw [← hb, himode]
    split_ifs <;> rfl

theorem answersOfRun_succ_next {n : Nat} {s t : State} (h : step s = .next t) :
    Spec.answersOfRun (n + 1) s = Spec.answersOfStep s ++ Spec.answersOfRun n t := by
  simp only [Spec.answersOfRun, h]

theorem sameProcessor_fault (e : Fault) : Spec.sameProcessor (.fault e) (.fault e) := rfl

/-- Settles O53: by induction on the number of steps. -/
theorem runDeterminedByAnswersReceived : Obligations.RunDeterminedByAnswersReceived := by
  unfold Obligations.RunDeterminedByAnswersReceived
  intro n
  induction n with
  | zero => exact fun s s' hp _ _ => hp
  | succ n ih =>
    intro s s' hp hh ha
    have h : Agree s s' := ⟨hp, hh⟩
    have hstep : Spec.answersOfStep s = Spec.answersOfStep s' := answersOfStep_eq_of_append h ha
    rcases step_of_agree h hstep with ⟨t, t', hs, hs', ht⟩ | ⟨e, hs, hs'⟩
    · rw [answersOfRun_succ_next hs, answersOfRun_succ_next hs', hstep] at ha
      rw [run_succ_next hs, run_succ_next hs']
      exact ih t t' ht.processor ht.pAndH (List.append_cancel_left ha)
    · rw [run_succ_fault hs, run_succ_fault hs']
      exact sameProcessor_fault e

/-! ## Scripts (R53, log 1) -/

theorem fetchAnswer_cons {b : Bus} {v : Byte} {l : List Byte} (h : b.answers = v :: l) (a : Word) :
    b.fetchAnswer a = v := by
  simp only [Bus.fetchAnswer, h]

theorem readAnswer_cons {b : Bus} {v : Byte} {l : List Byte} (h : b.answers = v :: l) (a : Word) :
    b.readAnswer a = v := by
  simp only [Bus.readAnswer, h]

/-- A script of at least three answers begins with those of the step. -/
theorem answersOfStep_prefix {s : State} {l r : List Byte} (hl : 3 ≤ l.length) (h : s.bus.answers = l ++ r) :
    ∃ l', l = Spec.answersOfStep s ++ l' := by
  match l, hl with
  | x :: y :: z :: l, _ =>
  cases hr : s.run with
  | halted => exact ⟨_, by rw [answersOfStep_halted hr]; rfl⟩
  | running =>
    have h1 : (Spec.afterFetch s).bus.answers = y :: (z :: l ++ r) := congrArg (List.drop 1) h
    have h2 : ∀ base, (Spec.afterDisplacement (Spec.afterFetch s) base).bus.answers = z :: (l ++ r) :=
      fun _ => congrArg (List.drop 1) h1
    rw [answersOfStep_running hr, fetchAnswer_cons h, readAnswer_cons h1, readAnswer_cons h1, readAnswer_cons (h2 _)]
    split_ifs
    exacts [⟨l, rfl⟩, ⟨z :: l, rfl⟩, ⟨y :: z :: l, rfl⟩]

/-- A machine whose script begins with the bytes that another receives in a step receives the same. -/
theorem answersOfStep_of_script {s s' : State} {r : List Byte} (h : Agree s s')
    (hs : s'.bus.answers = Spec.answersOfStep s ++ r) : Spec.answersOfStep s' = Spec.answersOfStep s := by
  have hrun : s'.run = s.run := congrArg Processor.run h.processor.symm
  have himode : s'.imode = s.imode := congrArg Processor.imode h.processor.symm
  cases hr : s.run with
  | halted => rw [answersOfStep_halted hr, answersOfStep_halted (hrun.trans hr)]
  | running =>
    rw [answersOfStep_running hr] at hs ⊢
    rw [answersOfStep_running (hrun.trans hr), fetchAnswer_cons hs, himode]
    have h1 : (Spec.afterFetch s').bus.answers = _ := congrArg (List.drop 1) hs
    have h2 : (Spec.afterDisplacement (Spec.afterFetch s') (modeBase s')).bus.answers = _ :=
      congrArg (List.drop 1) h1
    split_ifs at h1 h2 ⊢
    · rw [readAnswer_cons h1, readAnswer_cons h2]
    · rw [readAnswer_cons h1]
    · rfl

/-- One step of two scripted machines whose scripts begin with the bytes that the first receives. -/
theorem step_of_script {s s' : State} {r' : List Byte} (h : Agree s s')
    (hs' : s'.bus.answers = Spec.answersOfStep s ++ r') :
    (∃ t t', step s = .next t ∧ step s' = .next t' ∧ Agree t t' ∧ t'.bus.answers = r') ∨
      ∃ e, step s = .fault e ∧ step s' = .fault e := by
  have ha := answersOfStep_of_script h hs'
  rcases step_of_agree h ha.symm with ⟨t, t', hs, hn, ht⟩ | hf
  · refine .inl ⟨t, t', hs, hn, ht, ?_⟩
    rw [step_answers hn, hs', ha, List.drop_left]
  · exact .inr hf

/-- Settles O45: by induction on the number of steps, each taking at most three answers off the script. -/
theorem runDeterminedByBusAnswers : Obligations.RunDeterminedByBusAnswers := by
  unfold Obligations.RunDeterminedByBusAnswers
  intro n
  induction n with
  | zero => exact fun s s' _ _ _ hp _ _ _ _ => hp
  | succ n ih =>
    intro s s' l r r' hp hh hl hs hs'
    obtain ⟨l', rfl⟩ := answersOfStep_prefix (by omega) hs
    have hlen := answersOfStep_length_le s
    rw [List.length_append] at hl
    rw [List.append_assoc] at hs hs'
    rcases step_of_script ⟨hp, hh⟩ hs' with ⟨t, t', ht, ht', hagree, hr'⟩ | ⟨e, hf, hf'⟩
    · have hr : t.bus.answers = l' ++ r := by rw [step_answers ht, hs, List.drop_left]
      rw [run_succ_next ht, run_succ_next ht']
      exact ih t t' l' r r' hagree.processor hagree.pAndH (by omega) hr hr'
    · rw [run_succ_fault hf, run_succ_fault hf']
      exact sameProcessor_fault e

/-- The script of a run: the bytes each step receives, filled up at the end to three for each step. -/
theorem exists_script (n : Nat) (s : State) : ∃ l : List Byte, l.length = 3 * n ∧
    ∀ s' r, Agree s s' → s'.bus.answers = l ++ r → Spec.sameProcessor (run n s) (run n s') := by
  induction n generalizing s with
  | zero => exact ⟨[], rfl, fun s' _ h _ => h.processor⟩
  | succ n ih =>
    have hlen := answersOfStep_length_le s
    have htail : ∃ l' : List Byte, l'.length = 3 * n ∧ ∀ t, step s = .next t →
        ∀ t' r, Agree t t' → t'.bus.answers = l' ++ r → Spec.sameProcessor (run n t) (run n t') := by
      cases hs : step s with
      | next t =>
        obtain ⟨l', hl', hrun⟩ := ih t
        exact ⟨l', hl', fun _ ht => by cases ht; exact hrun⟩
      | fault e => exact ⟨List.replicate (3 * n) 0, List.length_replicate, fun _ ht => by cases ht⟩
      | refused e => exact absurd hs (step_ne_refused s e)
    obtain ⟨l', hl', hrun⟩ := htail
    refine ⟨Spec.answersOfStep s ++ (l' ++ List.replicate (3 - (Spec.answersOfStep s).length) 0), ?_, ?_⟩
    · rw [List.length_append, List.length_append, List.length_replicate]
      omega
    · intro s' r h hs'
      rw [List.append_assoc, List.append_assoc] at hs'
      rcases step_of_script h hs' with ⟨t, t', ht, ht', hagree, hr'⟩ | ⟨e, hf, hf'⟩
      · rw [run_succ_next ht, run_succ_next ht']
        exact hrun t ht t' _ hagree hr'
      · rw [run_succ_fault hf, run_succ_fault hf']
        exact sameProcessor_fault e

/-- Settles O44: the script of the bytes received. -/
theorem everyCollaboratorHasAScript : Obligations.EveryCollaboratorHasAScript := by
  unfold Obligations.EveryCollaboratorHasAScript
  intro n s
  obtain ⟨l, hl, hrun⟩ := exists_script n s
  exact ⟨l, hl, fun r => hrun _ r (Agree.mk_bus s _) rfl⟩

end Sys2Proof.Proofs
end

section
/-! PROOFS. Several steps (30_encoding.md R81, R83; 95_test_vectors.md W6) and the disassembly backend
(43_disassembly_backend.md R195 to R198). -/

namespace Sys2Proof.Proofs

open Sys2Proof.Machine

/-! ## Several steps -/

theorem run_one {s t : State} (h : step s = .next t) : run 1 s = .next t := run_succ_next h

theorem run_two {s u t : State} (h : step s = .next u) (h' : step u = .next t) : run 2 s = .next t :=
  (run_succ_next h).trans (run_one h')

/-- A step on a control byte that the script gives. -/
theorem step_control {s : State} {b : Byte} {rest : List Byte} (hr : s.run = .running) (hs : s.bus.answers = b :: rest)
    (hl : Spec.listed b = true) (ha : Spec.aluByte b = false) : step s = .next (controlEnd s b) := by
  obtain rfl : s.bus.fetchAnswer s.pc = b := fetchAnswer_cons hs s.pc
  exact (step_next_iff hr).2 (.control hl ha)

/-- A step on 0xDD or 0xFD, given by the script (R182, R183). -/
theorem step_prefix {s : State} {p : Byte} {rest : List Byte} (hr : s.run = .running) (hs : s.bus.answers = p :: rest)
    (hp : p = 0xDD#8 ∨ p = 0xFD#8) : step s = .next (controlEnd s p) :=
  step_control hr hs (by rcases hp with rfl | rfl <;> decide) (by rcases hp with rfl | rfl <;> decide)

theorem controlEnd_answers {s : State} {b : Byte} {rest : List Byte} (hs : s.bus.answers = b :: rest) :
    (controlEnd s b).bus.answers = rest := congrArg (List.drop 1) hs

/-- Settles O48: by induction on the chain. -/
theorem lastPrefixOfAChainWins : Obligations.LastPrefixOfAChainWins := by
  unfold Obligations.LastPrefixOfAChainWins
  intro ps last
  induction ps with
  | nil =>
    intro s rest hps hr hs
    have hlast := hps last (by simp)
    refine ⟨_, run_one (step_prefix hr hs hlast), ?_, rfl, rfl, rfl, rfl, controlEnd_answers hs⟩
    rcases hlast with rfl | rfl <;> rfl
  | cons p ps ih =>
    intro s rest hps hr hs
    have hstep := step_prefix hr hs (hps p (by simp))
    obtain ⟨t, hrun, himode, hpc, hcycles, haf, hmemptr, hrest⟩ :=
      ih (controlEnd s p) rest (fun q hq => hps q (List.mem_cons_of_mem p hq)) hr (controlEnd_answers hs)
    refine ⟨t, (run_succ_next hstep).trans hrun, himode, ?_, ?_, haf, hmemptr, hrest⟩
    · rw [hpc, List.length_cons, BitVec.ofNat_add (ps.length + 1) 1, BitVec.add_comm (BitVec.ofNat 16 (ps.length + 1))]
      exact BitVec.add_assoc s.pc 1#16 _
    · rw [hcycles, List.length_cons]
      show s.cycles + 4 + 4 * (ps.length + 1) = s.cycles + 4 * (ps.length + 1 + 1)
      omega

/-- The byte that selects an index register for the next instruction (R76). -/
def prefixByte : IndexReg → Byte
  | .ix => 0xDD#8
  | .iy => 0xFD#8

/-- 0xDD or 0xFD and an ALU byte on the memory slot, over their two steps (R105, R137, R138). -/
theorem run_two_indexed {s : State} {p : IndexReg} {b d v : Byte} {rest : List Byte} (hr : s.run = .running)
    (ha : Spec.aluByte b = true) (hz : b.toNat % 8 = 6) (hs : s.bus.answers = prefixByte p :: b :: d :: v :: rest) :
    ∃ t, run 2 s = .next t ∧
      t.toProcessor = { s.toProcessor with
        af := Spec.pair (Spec.opValue (b.toNat / 8 % 8) (Spec.hi s.af) v)
          (Spec.flags (Spec.opValue (b.toNat / 8 % 8) (Spec.hi s.af) v) (b.toNat / 8 % 8 = 4 && s.pAndH)),
        memptr := Spec.ea (s.indexBase p) d, pc := s.pc + 3#16, lastFetch := s.pc + 1#16,
        imode := .direct, cycles := s.cycles + 20 } := by
  have hp : prefixByte p = 0xDD#8 ∨ prefixByte p = 0xFD#8 := by
    cases p with
    | ix => exact .inl rfl
    | iy => exact .inr rfl
  have hfirst := step_prefix hr hs hp
  generalize hu : controlEnd s (prefixByte p) = u at hfirst
  have hu0 : u.bus.answers = b :: d :: v :: rest := by rw [← hu]; exact controlEnd_answers hs
  have hu1 : (Spec.afterFetch u).bus.answers = d :: v :: rest := congrArg (List.drop 1) hu0
  have hu2 : (indexedState u p).bus.answers = v :: rest := congrArg (List.drop 1) hu1
  have hb : u.bus.fetchAnswer u.pc = b := fetchAnswer_cons hu0 u.pc
  have hm : u.imode = regMode p := by
    rw [← hu]
    cases p <;> rfl
  have hsecond := (step_next_iff (s := u) (hu ▸ hr)).2 (.indexed p (hb.symm ▸ ha) (hb.symm ▸ hz) hm)
  rw [hb, readAnswer_cons hu2] at hsecond
  refine ⟨_, run_two hfirst hsecond, ?_⟩
  have hd : (Spec.afterFetch u).bus.readAnswer (Spec.afterFetch u).pc = d := readAnswer_cons hu1 _
  rw [indexedState, Spec.afterDisplacement, hd, ← hu]
  have hpc : s.pc + 1#16 + 1#16 + 1#16 = s.pc + 3#16 := by rw [BitVec.add_assoc, BitVec.add_assoc]; rfl
  rw [← hpc]
  cases p <;> rfl

/-- Settles O49: the three bytes are ALU bytes on the memory slot, 0xA6 the AND. -/
theorem indexedInstructionOverTwoSteps : Obligations.IndexedInstructionOverTwoSteps := by
  unfold Obligations.IndexedInstructionOverTwoSteps
  intro s b d v rest hr hb
  have hfields : Spec.aluByte b = true ∧ b.toNat % 8 = 6 ∧
      decide (b.toNat / 8 % 8 = 4) = decide (b = 0xA6#8) := by
    rcases hb with rfl | rfl | rfl <;> decide
  obtain ⟨ha, hz, hy⟩ := hfields
  simp only [← hy]
  exact ⟨run_two_indexed (p := .ix) hr ha hz, run_two_indexed (p := .iy) hr ha hz⟩

/-- Settles O50: XOR A gives A = 0, F = 0x44 from every state, and NOP keeps both. -/
theorem xorThenNopFromConstruction : Obligations.XorThenNopFromConstruction := by
  unfold Obligations.XorThenNopFromConstruction
  intro init h b rest hs
  have hdec : decodeOpcode .direct (b.fetchAnswer 0x0000#16) = .ok (.complete .xorA) := by
    rw [fetchAnswer_cons hs]
    rfl
  have hfirst : step (State.construct init h b) =
      .next { Spec.afterFetch (State.construct init h b) with af := 0x0044#16, imode := .direct } := by
    rw [step_of_complete (i := .xorA) rfl hdec]
    exact (algebraicLawsOfTheLogicalGroup.2 _).1
  have hsecond := step_control
    (s := { Spec.afterFetch (State.construct init h b) with af := 0x0044#16, imode := .direct }) (b := 0x00#8) rfl
    (congrArg (List.drop 1) hs) (by decide) (by decide)
  have ha : hiByte 0x0044#16 = 0x00#8 := by decide
  have hf : loByte 0x0044#16 = 0x44#8 := by decide
  exact ⟨_, _, run_one hfirst, run_two hfirst hsecond, ha, hf, rfl, rfl, rfl, ha, hf, rfl, rfl, rfl⟩

/-! ## Texts (R196, R197) -/

theorem dispText_eq_signedText (d : Byte) : dispText d = Spec.signedText d := by
  have hd := d.isLt
  rw [dispText, Spec.signedText, BitVec.toInt_eq_toNat_cond]
  by_cases h : d.toNat < 128
  · rw [if_pos (show 2 * d.toNat < 2 ^ 8 by omega), if_pos (by omega), if_pos h]
    rfl
  · rw [if_neg (show ¬ 2 * d.toNat < 2 ^ 8 by omega), if_neg (by omega), if_neg h]
    congr 2
    omega

theorem aluText_eq_opText (k : AluOp) : aluText k = Spec.opText k := by
  cases k <;> rfl

theorem hookText_alu (k : AluOp) (o : Operand) : hookText (.alu k o) = Spec.opText k ++ (" " ++ operandText o) := by
  rw [hookText, aluText_eq_opText, String.append_assoc]

theorem hookText_memIx (k : AluOp) (d : Byte) (ea : Word) :
    hookText (.alu k (.memIdx .ix d ea)) = Spec.opText k ++ " (ix" ++ Spec.signedText d ++ ")" := by
  rw [hookText_alu, operandText, dispText_eq_signedText, show " (ix" = " " ++ "(ix" from rfl]
  simp only [String.append_assoc]

theorem hookText_memIy (k : AluOp) (d : Byte) (ea : Word) :
    hookText (.alu k (.memIdx .iy d ea)) = Spec.opText k ++ " (iy" ++ Spec.signedText d ++ ")" := by
  rw [hookText_alu, operandText, dispText_eq_signedText, show " (iy" = " " ++ "(iy" from rfl]
  simp only [String.append_assoc]

/-- Settles O51: each text is the operation's and the operand's. -/
theorem disassemblyText : Obligations.DisassemblyText := by
  unfold Obligations.DisassemblyText
  refine ⟨rfl, rfl, dispText_eq_signedText, fun k => ?_⟩
  exact ⟨fun m => ⟨hookText_alu k _, hookText_alu k _, hookText_alu k _, hookText_alu k _, hookText_alu k _⟩,
    hookText_alu k _, hookText_alu k _, hookText_alu k _, hookText_alu k _, hookText_alu k _, hookText_alu k _,
    hookText_alu k _, fun d ea => ⟨hookText_memIx k d ea, hookText_memIy k d ea⟩⟩

/-- Settles O54: only the rows with a displacement have a text that varies. -/
theorem rowsDisassembleToTheirText : Obligations.RowsDisassembleToTheirText := by
  unfold Obligations.RowsDisassembleToTheirText
  intro s i
  cases i with
  | andMemIx d => exact congrArg some (hookText_memIx .and d _)
  | andMemIy d => exact congrArg some (hookText_memIy .and d _)
  | xorMemIx d => exact congrArg some (hookText_memIx .xor d _)
  | xorMemIy d => exact congrArg some (hookText_memIy .xor d _)
  | orMemIx d => exact congrArg some (hookText_memIx .or d _)
  | orMemIy d => exact congrArg some (hookText_memIy .or d _)
  | _ => rfl

/-! ## The disassembler's step (R195, R198) -/

/-- Where the decode path gives an instruction, the disassembler sets IMODE and prints the hook call's text. -/
theorem disasmStep_of_takeInstr {s s1 : State} {i : Instr} (out : List String) (hr : s.run = .running)
    (h : s.takeInstr = .ok (i, s1)) :
    disasmStep { engine := s, output := out } = .next
      { engine := s1.setImode ((prefixMode? i).getD .direct),
        output := out ++ ((s1.descriptor? i).map hookText).toList } := by
  cases hm : prefixMode? i with
  | none => simp [disasmStep, hr, h, hm, State.endInstr]
  | some m => simp [disasmStep, hr, h, hm, descriptor?_of_prefixMode s1 hm]

theorem step_fault_iff_takeInstr {s : State} {e : Fault} :
    step s = .fault e ↔ s.run = .running ∧ ∃ b, s.takeInstr = .error (e, b) := by
  refine ⟨step_fault_cases, ?_⟩
  rintro ⟨hr, b, hb⟩
  rw [step_running hr, hb]

/-- The two bytes at PC decode to the instruction taken, whose state differs from the one before in PC, LAST_FETCH,
MEMPTR, CYCLES and the bus alone; its cost is 4, or 13 with a displacement (R101, R105). -/
theorem takeInstr_decode {s s1 : State} {i : Instr} (h : s.takeInstr = .ok (i, s1)) :
    (∃ rest, decode s.imode [s.bus.fetchAnswer s.pc, (Spec.afterFetch s).bus.readAnswer (s.pc + 1#16)] =
        .ok (i, rest)) ∧
      s1.cycles = s.cycles + (if Spec.takesDisplacement s.imode (s.bus.fetchAnswer s.pc) then 13 else 4) ∧
      ∃ pc mp lf c b, s1 = { s with pc := pc, memptr := mp, lastFetch := lf, cycles := c, bus := b } := by
  rcases takeInstr_ok_cases h with ⟨ho, rfl⟩ | ⟨k, p, ho, rfl, rfl⟩
  · rw [takesDisplacement_of_complete ho]
    exact ⟨⟨_, decode_complete ho _⟩, rfl, _, _, _, _, _, rfl⟩
  · rw [takesDisplacement_of_displaced ho, fetchOpcode_eq_spec, fetchDisplacement_eq_spec]
    exact ⟨⟨_, decode_displaced ho _ _⟩, rfl, _, _, _, _, _, rfl⟩

/-- Settles O52: both backends run one decode path, and differ in the operand read and in what the hook writes. -/
theorem disassemblerSharesTheDecodePath : Obligations.DisassemblerSharesTheDecodePath := by
  unfold Obligations.DisassemblerSharesTheDecodePath
  intro s out hr
  refine ⟨fun e => step_fault_iff_takeInstr.trans disasmStep_fault_iff.symm, fun t h => ?_⟩
  rcases step_next_cases h with ⟨hh, -⟩ | ⟨-, i, s1, htake, hexec⟩
  · rw [hr] at hh; cases hh
  refine ⟨_, disasmStep_of_takeInstr out hr htake, ?_⟩
  obtain ⟨⟨rest, hdec⟩, hcycles, _, _, _, _, _, hs1⟩ := takeInstr_decode htake
  have hcost : t.cycles = s1.cycles +
      (if Spec.aluByte (s.bus.fetchAnswer s.pc) && (s.bus.fetchAnswer s.pc).toNat % 8 = 6 then 3 else 0) := by
    rw [cyclesPerInstruction s t hr h, hcycles]
    by_cases htd : Spec.takesDisplacement s.imode (s.bus.fetchAnswer s.pc) = true
    · obtain ⟨ha, hz, -⟩ := takesDisplacement_eq_true_iff.1 htd
      rw [if_pos htd, if_pos htd, ha, decide_eq_true hz]
      rfl
    · rw [if_neg htd, if_neg htd]
      split_ifs <;> rfl
  have himode := exec_imode hexec
  have hprint : if i = .prefixDD ∨ i = .prefixFD then out ++ ((s1.descriptor? i).map hookText).toList = out
      else ∃ d, s.descriptor? i = some d ∧ out ++ ((s1.descriptor? i).map hookText).toList = out ++ [hookText d] := by
    have hdesc : s1.descriptor? i = s.descriptor? i := descriptor?_congr (by rw [hs1]) (by rw [hs1]) i
    rw [hdesc]
    split_ifs with hi
    · have hnone : s.descriptor? i = none := by rcases hi with rfl | rfl <;> rfl
      rw [hnone]
      exact List.append_nil out
    · rcases exec_cases i s with ⟨m, hm, -⟩ | ⟨d, -, hd, -⟩
      · rw [prefixMode?_eq, if_neg (not_or.1 hi).1, if_neg (not_or.1 hi).2] at hm
        cases hm
      · exact ⟨d, hd, by rw [hd]; rfl⟩
  obtain ⟨_, _, _, _, _, _, rfl, -⟩ := exec_frame hexec
  refine ⟨rfl, rfl, rfl, himode.symm, hcost, ?_, ?_, ?_, ?_, ?_, ?_, ?_, ?_, ?_, i, rest, hdec, hprint⟩ <;>
    rw [hs1] <;> rfl

end Sys2Proof.Proofs
end
